-- ==== Sys2Proof/Word.lean ====
section
/-! DEFINITION. The words of the engine: a byte, a 32-bit register or command word, and the 64-bit block. -/

namespace Sys2Proof

/-- One byte of storage (00_scope.md R16). -/
abbrev Byte := BitVec 8

/-- A 32-bit register or command word (10_state.md R21, 30_encoding.md R90). -/
abbrev Word := BitVec 32

/-- A 64-bit block, key block or digest (42_digest_engine.md R161, 41_key_deriver.md R142). -/
abbrev Block := BitVec 64

end Sys2Proof
end

