-- ==== Sys2Proof/Syntax.lean ====
section
/-! DEFINITION. The commands: one constructor for each row of spec/opcode_table.json (30_encoding.md R92, R93). -/

namespace Sys2Proof

/-- A legal command.  `c` is the CTX field, the slot index as a natural number (30_encoding.md R94). -/
inductive Instr where
  /-- `nop`, 44_hash_context.md R236. -/
  | nop
  /-- `hash.shared`, 44_hash_context.md R231. -/
  | hashShared
  /-- `hash.reent c`, 44_hash_context.md R234. -/
  | hashReentrant (c : Nat)
  /-- `hash.sized c`, 44_hash_context.md R232. -/
  | hashSized (c : Nat)
  /-- `hash.grow c`, 44_hash_context.md R233. -/
  | hashGrowing (c : Nat)
  /-- `ctx.init c`, 44_hash_context.md R235. -/
  | ctxInit (c : Nat)
  /-- `salt.decode`, 40_salt_codec.md R121. -/
  | saltDecode
  /-- `enc6`, 40_salt_codec.md R122. -/
  | encode6
  /-- `key.derive`, 41_key_deriver.md R148. -/
  | keyDerive
  /-- `digest`, 42_digest_engine.md R178. -/
  | digest
  /-- `out.encode`, 43_output_encoder.md R204. -/
  | outEncode
deriving DecidableEq, Repr

end Sys2Proof
end

