-- ==== Sys2Proof/WellFormed.lean ====
section
/-! DEFINITION. Which commands can be written as a CMD word: the CTX field is 8 bits wide (30_encoding.md R91, R94). -/

namespace Sys2Proof

/-- The slot index fits the CTX field; the commands without one are always well formed (R94, R96).  The field is read
whole, and whether it names a usable slot is decided when the command executes (R104). -/
abbrev WellFormed : Instr → Prop
  | .hashReentrant c => c < 256
  | .hashSized c => c < 256
  | .hashGrowing c => c < 256
  | .ctxInit c => c < 256
  | .nop => True
  | .hashShared => True
  | .saltDecode => True
  | .encode6 => True
  | .keyDerive => True
  | .digest => True
  | .outEncode => True

end Sys2Proof
end

