-- ==== Sys2Proof/Decode.lean ====
section
/-! DEFINITION. The decoder of 30_encoding.md R103, total on 32-bit words and rejecting by name, and after it the encoder
of the same format C (R91). -/

namespace Sys2Proof

/-- Why a word is Illegal (R96, R97, R98). -/
inductive IllegalWord where
  /-- RSV0 or RSV1 is not 0 (R96). -/
  | reservedField
  /-- OP is a reserved value (R98). -/
  | reservedOp
  /-- MODE is not 0 on a command other than HASH (R96). -/
  | modeNotZero
  /-- CTX is not 0 on a command that names no slot, HASH.SHARED among them (R96). -/
  | ctxNotZero
deriving DecidableEq, Repr

/-! ## Fields of format C (R91) -/

/-- OP, bits [7:0]. -/
def opField (w : Word) : BitVec 8 := w.extractLsb' 0 8

/-- MODE, bits [9:8]. -/
def modeField (w : Word) : BitVec 2 := w.extractLsb' 8 2

/-- RSV0, bits [15:10]. -/
def rsv0Field (w : Word) : BitVec 6 := w.extractLsb' 10 6

/-- CTX, bits [23:16]. -/
def ctxField (w : Word) : BitVec 8 := w.extractLsb' 16 8

/-- RSV1, bits [31:24]. -/
def rsv1Field (w : Word) : BitVec 8 := w.extractLsb' 24 8

/-! ## The decoder -/

/-- HASH: the mode selects the entry point, and SHARED takes no slot (R93, R96). -/
def decodeHash (mode : BitVec 2) (ctx : BitVec 8) : Except IllegalWord Instr :=
  if mode = 0#2 then (if ctx = 0#8 then .ok .hashShared else .error .ctxNotZero)
  else if mode = 1#2 then .ok (.hashReentrant ctx.toNat)
  else if mode = 2#2 then .ok (.hashSized ctx.toNat)
  else .ok (.hashGrowing ctx.toNat)

/-- A command without a mode and without a slot (R96). -/
def decodeFixed (i : Instr) (mode : BitVec 2) (ctx : BitVec 8) : Except IllegalWord Instr :=
  if mode ≠ 0#2 then .error .modeNotZero
  else if ctx ≠ 0#8 then .error .ctxNotZero
  else .ok i

/-- CTX_INIT: a slot and no mode (R96). -/
def decodeCtxInit (mode : BitVec 2) (ctx : BitVec 8) : Except IllegalWord Instr :=
  if mode ≠ 0#2 then .error .modeNotZero else .ok (.ctxInit ctx.toNat)

/-- `Decode(w)` (R103). -/
def decode (w : Word) : Except IllegalWord Instr :=
  let op := opField w
  let mode := modeField w
  let ctx := ctxField w
  if rsv0Field w ≠ 0#6 ∨ rsv1Field w ≠ 0#8 then .error .reservedField
  else if op = 0x00#8 then decodeFixed .nop mode ctx
  else if op = 0x01#8 then decodeHash mode ctx
  else if op = 0x02#8 then decodeCtxInit mode ctx
  else if op = 0x10#8 then decodeFixed .saltDecode mode ctx
  else if op = 0x11#8 then decodeFixed .encode6 mode ctx
  else if op = 0x20#8 then decodeFixed .keyDerive mode ctx
  else if op = 0x30#8 then decodeFixed .digest mode ctx
  else if op = 0x40#8 then decodeFixed .outEncode mode ctx
  else .error .reservedOp

/-- The command the decoder reads from the 32-bit word whose bits are `w` (the table numbers bit 0 as the word's least
significant bit, as R91 does).  A command is one word, so `nbits` is 32 on every row, and bits at and above `nbits` count
as 0. -/
def decodeTableWord (nbits w : Nat) : Option Instr :=
  match decode (BitVec.ofNat 32 (w % 2 ^ nbits)) with
  | .ok i => some i
  | .error _ => none

/-! ## The encoder (R91, R92, R93) -/

/-- A word of format C with both reserved fields 0. -/
def packC (op : BitVec 8) (mode : BitVec 2) (ctx : BitVec 8) : Word :=
  0#8 ++ ctx ++ 0#6 ++ mode ++ op

/-- The CMD word of a well-formed command (R101). -/
def encode : Instr → Word
  | .nop => packC 0x00#8 0#2 0#8
  | .hashShared => packC 0x01#8 0#2 0#8
  | .hashReentrant c => packC 0x01#8 1#2 (BitVec.ofNat 8 c)
  | .hashSized c => packC 0x01#8 2#2 (BitVec.ofNat 8 c)
  | .hashGrowing c => packC 0x01#8 3#2 (BitVec.ofNat 8 c)
  | .ctxInit c => packC 0x02#8 0#2 (BitVec.ofNat 8 c)
  | .saltDecode => packC 0x10#8 0#2 0#8
  | .encode6 => packC 0x11#8 0#2 0#8
  | .keyDerive => packC 0x20#8 0#2 0#8
  | .digest => packC 0x30#8 0#2 0#8
  | .outEncode => packC 0x40#8 0#2 0#8

end Sys2Proof
end

