-- ==== Sys2Proof/Machine/Des.lean ====
section
/-! DEFINITION. The Digest Engine's functions (42_digest_engine.md): the DES tables, permutations, the salt swap, the round
function, the key schedule, one salted encryption and the 25 chained iterations, each a pure function as the spec writes it.
The hidden registers that carry them out stand in Machine/Datapath.lean. -/

namespace Sys2Proof.Machine

/-! ## Bit numbering and permutations (00_scope.md R11) -/

/-- `desbit(v, n, W) = v[W - n]`: DES bit n counts from 1 at the most significant end (R11). -/
def Des.desbit {w : Nat} (v : BitVec w) (n : Nat) : Bool := v.getLsbD (w - n)

/-- The number whose binary digits are the DES bits of `v` that `table` names, first entry first. -/
def Des.permNat {w : Nat} (table : List Nat) (v : BitVec w) : Nat :=
  table.foldl (fun acc n => 2 * acc + (Des.desbit v n).toNat) 0

/-- `Perm(T, v, W)` (R11): output bit j (from the most significant end) is the DES bit `T[j]` of `v`. -/
def Des.perm {w : Nat} (table : List Nat) (m : Nat) (v : BitVec w) : BitVec m :=
  BitVec.ofNat m (Des.permNat table v)

/-! ## Tables (R162-R164, R166, R168, R170-R172) -/

/-- IP, R162: entry j is the input bit that becomes output bit j. -/
def Des.tableIP : List Nat :=
  [58, 50, 42, 34, 26, 18, 10, 2,
   60, 52, 44, 36, 28, 20, 12, 4,
   62, 54, 46, 38, 30, 22, 14, 6,
   64, 56, 48, 40, 32, 24, 16, 8,
   57, 49, 41, 33, 25, 17, 9, 1,
   59, 51, 43, 35, 27, 19, 11, 3,
   61, 53, 45, 37, 29, 21, 13, 5,
   63, 55, 47, 39, 31, 23, 15, 7]

/-- FP, the inverse of IP, R163. -/
def Des.tableFP : List Nat :=
  [40, 8, 48, 16, 56, 24, 64, 32,
   39, 7, 47, 15, 55, 23, 63, 31,
   38, 6, 46, 14, 54, 22, 62, 30,
   37, 5, 45, 13, 53, 21, 61, 29,
   36, 4, 44, 12, 52, 20, 60, 28,
   35, 3, 43, 11, 51, 19, 59, 27,
   34, 2, 42, 10, 50, 18, 58, 26,
   33, 1, 41, 9, 49, 17, 57, 25]

/-- The expansion E, R164. -/
def Des.tableE : List Nat :=
  [32, 1, 2, 3, 4, 5,
   4, 5, 6, 7, 8, 9,
   8, 9, 10, 11, 12, 13,
   12, 13, 14, 15, 16, 17,
   16, 17, 18, 19, 20, 21,
   20, 21, 22, 23, 24, 25,
   24, 25, 26, 27, 28, 29,
   28, 29, 30, 31, 32, 1]

/-- The permutation P, R168. -/
def Des.tableP : List Nat :=
  [16, 7, 20, 21, 29, 12, 28, 17,
   1, 15, 23, 26, 5, 18, 31, 10,
   2, 8, 24, 14, 32, 27, 3, 9,
   19, 13, 30, 6, 22, 11, 4, 25]

/-- Permuted choice 1, R170. -/
def Des.tablePC1 : List Nat :=
  [57, 49, 41, 33, 25, 17, 9,
   1, 58, 50, 42, 34, 26, 18,
   10, 2, 59, 51, 43, 35, 27,
   19, 11, 3, 60, 52, 44, 36,
   63, 55, 47, 39, 31, 23, 15,
   7, 62, 54, 46, 38, 30, 22,
   14, 6, 61, 53, 45, 37, 29,
   21, 13, 5, 28, 20, 12, 4]

/-- Permuted choice 2, R171. -/
def Des.tablePC2 : List Nat :=
  [14, 17, 11, 24, 1, 5,
   3, 28, 15, 6, 21, 10,
   23, 19, 12, 4, 26, 8,
   16, 7, 27, 20, 13, 2,
   41, 52, 31, 37, 47, 55,
   30, 40, 51, 45, 33, 48,
   44, 49, 39, 56, 34, 53,
   46, 42, 50, 36, 29, 32]

/-- Substitution box S1, R166: row r, column c stands at index 16 r + c. -/
def Des.tableS1 : List Nat :=
  [14, 4, 13, 1, 2, 15, 11, 8, 3, 10, 6, 12, 5, 9, 0, 7,
   0, 15, 7, 4, 14, 2, 13, 1, 10, 6, 12, 11, 9, 5, 3, 8,
   4, 1, 14, 8, 13, 6, 2, 11, 15, 12, 9, 7, 3, 10, 5, 0,
   15, 12, 8, 2, 4, 9, 1, 7, 5, 11, 3, 14, 10, 0, 6, 13]

/-- Substitution box S2, R166: row r, column c stands at index 16 r + c. -/
def Des.tableS2 : List Nat :=
  [15, 1, 8, 14, 6, 11, 3, 4, 9, 7, 2, 13, 12, 0, 5, 10,
   3, 13, 4, 7, 15, 2, 8, 14, 12, 0, 1, 10, 6, 9, 11, 5,
   0, 14, 7, 11, 10, 4, 13, 1, 5, 8, 12, 6, 9, 3, 2, 15,
   13, 8, 10, 1, 3, 15, 4, 2, 11, 6, 7, 12, 0, 5, 14, 9]

/-- Substitution box S3, R166: row r, column c stands at index 16 r + c. -/
def Des.tableS3 : List Nat :=
  [10, 0, 9, 14, 6, 3, 15, 5, 1, 13, 12, 7, 11, 4, 2, 8,
   13, 7, 0, 9, 3, 4, 6, 10, 2, 8, 5, 14, 12, 11, 15, 1,
   13, 6, 4, 9, 8, 15, 3, 0, 11, 1, 2, 12, 5, 10, 14, 7,
   1, 10, 13, 0, 6, 9, 8, 7, 4, 15, 14, 3, 11, 5, 2, 12]

/-- Substitution box S4, R166: row r, column c stands at index 16 r + c. -/
def Des.tableS4 : List Nat :=
  [7, 13, 14, 3, 0, 6, 9, 10, 1, 2, 8, 5, 11, 12, 4, 15,
   13, 8, 11, 5, 6, 15, 0, 3, 4, 7, 2, 12, 1, 10, 14, 9,
   10, 6, 9, 0, 12, 11, 7, 13, 15, 1, 3, 14, 5, 2, 8, 4,
   3, 15, 0, 6, 10, 1, 13, 8, 9, 4, 5, 11, 12, 7, 2, 14]

/-- Substitution box S5, R166: row r, column c stands at index 16 r + c. -/
def Des.tableS5 : List Nat :=
  [2, 12, 4, 1, 7, 10, 11, 6, 8, 5, 3, 15, 13, 0, 14, 9,
   14, 11, 2, 12, 4, 7, 13, 1, 5, 0, 15, 10, 3, 9, 8, 6,
   4, 2, 1, 11, 10, 13, 7, 8, 15, 9, 12, 5, 6, 3, 0, 14,
   11, 8, 12, 7, 1, 14, 2, 13, 6, 15, 0, 9, 10, 4, 5, 3]

/-- Substitution box S6, R166: row r, column c stands at index 16 r + c. -/
def Des.tableS6 : List Nat :=
  [12, 1, 10, 15, 9, 2, 6, 8, 0, 13, 3, 4, 14, 7, 5, 11,
   10, 15, 4, 2, 7, 12, 9, 5, 6, 1, 13, 14, 0, 11, 3, 8,
   9, 14, 15, 5, 2, 8, 12, 3, 7, 0, 4, 10, 1, 13, 11, 6,
   4, 3, 2, 12, 9, 5, 15, 10, 11, 14, 1, 7, 6, 0, 8, 13]

/-- Substitution box S7, R166: row r, column c stands at index 16 r + c. -/
def Des.tableS7 : List Nat :=
  [4, 11, 2, 14, 15, 0, 8, 13, 3, 12, 9, 7, 5, 10, 6, 1,
   13, 0, 11, 7, 4, 9, 1, 10, 14, 3, 5, 12, 2, 15, 8, 6,
   1, 4, 11, 13, 12, 3, 7, 14, 10, 15, 6, 8, 0, 5, 9, 2,
   6, 11, 13, 8, 1, 4, 10, 7, 9, 5, 0, 15, 14, 2, 3, 12]

/-- Substitution box S8, R166: row r, column c stands at index 16 r + c. -/
def Des.tableS8 : List Nat :=
  [13, 2, 8, 4, 6, 15, 11, 1, 10, 9, 3, 14, 5, 0, 12, 7,
   1, 15, 13, 8, 10, 3, 7, 4, 12, 5, 6, 11, 0, 14, 9, 2,
   7, 11, 4, 1, 9, 12, 14, 2, 0, 6, 10, 13, 15, 3, 5, 8,
   2, 1, 14, 7, 4, 10, 8, 13, 15, 12, 9, 0, 3, 5, 6, 11]

/-- The left-rotation schedule SHIFT[1..16], R172. -/
def Des.shifts : List Nat :=
  [1, 1, 2, 2, 2, 2, 2, 2, 1, 2, 2, 2, 2, 2, 2, 1]

/-! ## The round function (R164-R169) -/

/-- Initial permutation (R162). -/
def Des.ip (b : Block) : Block := Des.perm Des.tableIP 64 b

/-- Final permutation (R163). -/
def Des.fp (b : Block) : Block := Des.perm Des.tableFP 64 b

/-- Expansion of the right half (R164). -/
def Des.expand (r : BitVec 32) : BitVec 48 := Des.perm Des.tableE 48 r

/-- `e` with its bits i and j exchanged: where they differ, both are flipped. -/
def Des.swapBits (e : BitVec 48) (i j : Nat) : BitVec 48 :=
  if e.getLsbD i = e.getLsbD j then e else e ^^^ (BitVec.twoPow 48 i ^^^ BitVec.twoPow 48 j)

/-- SaltSwap (R165): for each k in 0..11 with salt bit k set, bits `e[47 - k]` and `e[23 - k]` are exchanged. -/
def Des.saltSwap (e : BitVec 48) (s : BitVec 12) : BitVec 48 :=
  (List.range 12).foldl (fun e k => if s.getLsbD k then Des.swapBits e (47 - k) (23 - k) else e) e

/-- One substitution box on a 6-bit group g: row `{g[5], g[0]}`, column `g[4:1]` (R167). -/
def Des.sbox (table : List Nat) (g : BitVec 6) : BitVec 4 :=
  let row := 2 * (g.getLsbD 5).toNat + (g.getLsbD 0).toNat
  let col := (g.extractLsb' 1 4).toNat
  BitVec.ofNat 4 (table.getD (16 * row + col) 0)

/-- The S-layer (R167): group i of x is `x[53-6i : 48-6i]`, and S1's result stands in bits [31:28]. -/
def Des.sLayer (x : BitVec 48) : BitVec 32 :=
  Des.sbox Des.tableS1 (x.extractLsb' 42 6) ++ Des.sbox Des.tableS2 (x.extractLsb' 36 6) ++
  Des.sbox Des.tableS3 (x.extractLsb' 30 6) ++ Des.sbox Des.tableS4 (x.extractLsb' 24 6) ++
  Des.sbox Des.tableS5 (x.extractLsb' 18 6) ++ Des.sbox Des.tableS6 (x.extractLsb' 12 6) ++
  Des.sbox Des.tableS7 (x.extractLsb' 6 6) ++ Des.sbox Des.tableS8 (x.extractLsb' 0 6)

/-- The permutation of the S-layer's output (R168). -/
def Des.pPerm (y : BitVec 32) : BitVec 32 := Des.perm Des.tableP 32 y

/-- The round function f (R169): expand, swap by the salt, add the round key, substitute, permute. -/
def Des.f (r : BitVec 32) (k : BitVec 48) (s : BitVec 12) : BitVec 32 :=
  Des.pPerm (Des.sLayer (Des.saltSwap (Des.expand r) s ^^^ k))

/-! ## Key schedule (R170-R173) -/

/-- Permuted choice 1 (R170). -/
def Des.pc1 (k : Block) : BitVec 56 := Des.perm Des.tablePC1 56 k

/-- Permuted choice 2 (R171). -/
def Des.pc2 (cd : BitVec 56) : BitVec 48 := Des.perm Des.tablePC2 48 cd

/-- The round keys from the halves C and Dk on, one for each rotation amount left (R173's loop). -/
def Des.roundKeys : List Nat → BitVec 28 → BitVec 28 → List (BitVec 48)
  | [], _, _ => []
  | n :: rest, c, d =>
    let c' := c.rotateLeft n
    let d' := d.rotateLeft n
    Des.pc2 (c' ++ d') :: Des.roundKeys rest c' d'

/-- KeySchedule (R173): KS[1..16], first round key first. -/
def Des.keySchedule (k : Block) : List (BitVec 48) :=
  let cd := Des.pc1 k
  Des.roundKeys Des.shifts (cd.extractLsb' 28 28) (cd.extractLsb' 0 28)

/-! ## One salted encryption and the digest (R160, R174, R175) -/

/-- One Feistel round on (L, R) (R174's loop body). -/
def Des.feistel (s : BitVec 12) (lr : BitVec 32 × BitVec 32) (k : BitVec 48) : BitVec 32 × BitVec 32 :=
  (lr.2, lr.1 ^^^ Des.f lr.2 k s)

/-- `DESs(KS, s, B)` (R174): IP, a round for each round key, the halves exchanged, FP. -/
def Des.encrypt (ks : List (BitVec 48)) (s : BitVec 12) (b : Block) : Block :=
  let x := Des.ip b
  let lr := ks.foldl (Des.feistel s) (x.extractLsb' 32 32, x.extractLsb' 0 32)
  Des.fp (lr.2 ++ lr.1)

/-- `n` chained encryptions of `b` (R160's loop, R175). -/
def Des.iterate (ks : List (BitVec 48)) (s : BitVec 12) : Nat → Block → Block
  | 0, b => b
  | n + 1, b => Des.iterate ks s n (Des.encrypt ks s b)

/-- `Digest(K, s)` (R160): 25 chained salted encryptions of the all-zero block. -/
def Des.digest (k : Block) (s : BitVec 12) : Block :=
  Des.iterate (Des.keySchedule k) s 25 0#64

end Sys2Proof.Machine
end

