-- ==== Sys2Proof/Config.lean ====
section
/-! DEFINITION. The engine's parameters (00_scope.md R8, R9) and the free values of the spec (00_scope.md R15,
93_implementation_defined.md U1-U3). -/

namespace Sys2Proof

/-- The two OPEN parameters (R8, R9): the number of context slots and the base address of the window on the host bus.
A machine holds one `Config` for its whole life (log 1). -/
structure Config where
  nCtx : Nat
  base : Nat
deriving DecidableEq, Repr

/-- The spec's default N_CTX (R8), at base address 0 (DESIGN CHOICE, log 1: the spec gives BASE no default). -/
def Config.default : Config := { nCtx := 4, base := 0 }

/-- The legal parameters (R8): 1 <= N_CTX <= 256, and BASE a multiple of 2^25. -/
abbrev Config.Legal (cfg : Config) : Prop :=
  1 ≤ cfg.nCtx ∧ cfg.nCtx ≤ 256 ∧ cfg.base % 2 ^ 25 = 0

/-- The parameters of R8 that are not OPEN, one field each, with the value R8 shows (R9: only N_CTX and BASE are OPEN,
so every machine has these values and the widths of the model's types rest on them). -/
structure Config.Fixed where
  /-- PASS_MAX: a passphrase of this effective length or more fails (R8, 41_key_deriver.md R145). -/
  passMax : Nat := 512
  /-- KEY_BYTES: only passphrase bytes 0..7 feed the key. -/
  keyBytes : Nat := 8
  /-- SALT_CHARS: characters of a salt. -/
  saltChars : Nat := 2
  /-- SALT_BITS: bits of the numeric salt. -/
  saltBits : Nat := 12
  /-- DIGEST_BITS: bits of a digest. -/
  digestBits : Nat := 64
  /-- ITERATIONS: full DES encryptions in one digest. -/
  iterations : Nat := 25
  /-- DES_ROUNDS: Feistel rounds in one encryption. -/
  desRounds : Nat := 16
  /-- OUT_CHARS: symbols that encode a digest. -/
  outChars : Nat := 11
  /-- OUT_FIELD_BYTES: the size of a slot's OUTPUT field. -/
  outFieldBytes : Nat := 384
  /-- SCRATCH_BYTES: the size of a slot's SCRATCH field. -/
  scratchBytes : Nat := 32768
  /-- CTX_LAYOUT_BYTES: the size of a slot. -/
  ctxLayoutBytes : Nat := 33280
  /-- PASSBUF_BYTES. -/
  passBufBytes : Nat := 512
  /-- SALTBUF_BYTES. -/
  saltBufBytes : Nat := 16
  /-- The register width, in bits. -/
  registerWidth : Nat := 32
deriving DecidableEq, Repr

/-- The fixed parameters of every engine: each field at the value R8 shows. -/
abbrev Config.fixed : Config.Fixed := {}

/-! The fixed parameters by name; the model's definitions and laws speak of them through these. -/

/-- PASS_MAX (R8). -/
abbrev Config.passMax : Nat := Config.fixed.passMax

/-- KEY_BYTES (R8). -/
abbrev Config.keyBytes : Nat := Config.fixed.keyBytes

/-- SALT_CHARS (R8). -/
abbrev Config.saltChars : Nat := Config.fixed.saltChars

/-- SALT_BITS (R8). -/
abbrev Config.saltBits : Nat := Config.fixed.saltBits

/-- DIGEST_BITS (R8). -/
abbrev Config.digestBits : Nat := Config.fixed.digestBits

/-- ITERATIONS (R8). -/
abbrev Config.iterations : Nat := Config.fixed.iterations

/-- DES_ROUNDS (R8). -/
abbrev Config.desRounds : Nat := Config.fixed.desRounds

/-- OUT_CHARS (R8). -/
abbrev Config.outChars : Nat := Config.fixed.outChars

/-- OUT_FIELD_BYTES (R8). -/
abbrev Config.outFieldBytes : Nat := Config.fixed.outFieldBytes

/-- SCRATCH_BYTES (R8). -/
abbrev Config.scratchBytes : Nat := Config.fixed.scratchBytes

/-- CTX_LAYOUT_BYTES (R8). -/
abbrev Config.ctxLayoutBytes : Nat := Config.fixed.ctxLayoutBytes

/-- PASSBUF_BYTES (R8). -/
abbrev Config.passBufBytes : Nat := Config.fixed.passBufBytes

/-- SALTBUF_BYTES (R8). -/
abbrev Config.saltBufBytes : Nat := Config.fixed.saltBufBytes

/-- The register width (R8). -/
abbrev Config.registerWidth : Nat := Config.fixed.registerWidth

/-- The output string's length: two salt characters, the symbols and NUL (R8, 43_output_encoder.md R202). -/
abbrev Config.outBytes : Nat := Config.saltChars + Config.outChars + 1

/-- The size of the host window: 32 MiB (20_memory.md R61). -/
abbrev Config.windowBytes : Nat := 0x2000000

/-- FREE VALUE: the draw of the byte at a window offset at one reset (10_state.md R44, R45; U1, U2).  The first
argument counts the resets, so that each reset draws afresh (log 2). -/
opaque Config.resetDraw : Nat → Nat → Byte

/-- FREE VALUE: the allocator oracle's answers, numbered in the order they are drawn (44_hash_context.md R233; U3;
log 4). -/
opaque Config.allocDraw : Nat → Bool

end Sys2Proof
end

