-- ==== Sys2Proof/Machine/State.lean ====
section
/-! DEFINITION. The engine's state as plain data (10_state.md), the bus events still to come (20_memory.md R74), the
reasons a step can stop, and the state after reset (70_reset_and_hazards.md R291). -/

namespace Sys2Proof.Machine

/-- The error codes of ERR.CODE (60_exceptions.md R260); `none` is CODE 0, success. -/
inductive ErrCode where
  | none
  | invalidArgument
  | invalidSalt
  | unsupportedFormat
  | passphraseTooLong
  | rangeError
  | allocationError
  | illegalCommand
deriving DecidableEq, Repr

/-- The registers of the register page that hold state (10_state.md R21), each at its implemented bits: the other bits
of the 32 read 0 and ignore writes (R22, R23, R25, R29, R30, R35).  CMD holds nothing (R24) and CONFIG is a view of the
parameter N_CTX (R30). -/
structure Regs where
  /-- RESULT bit 0, OK (R22). -/
  ok : Bool
  /-- ERR bits [3:0], CODE (R23). -/
  code : BitVec 4
  /-- ARGS bits [1:0]: bit 0 PASS_PRESENT, bit 1 SALT_PRESENT (R25). -/
  args : BitVec 2
  /-- PASS_LEN (R26). -/
  passLen : Word
  /-- SALT_LEN (R27). -/
  saltLen : Word
  /-- CTX_SIZE (R28). -/
  ctxSize : Word
  /-- ENC_ARG (R29). -/
  encArg : Word
  /-- ENC_RES bits [7:0] (R29). -/
  encRes : Byte
  /-- SALTNUM bits [11:0] (R30). -/
  saltNum : BitVec 12
  /-- SALTCH bits [15:0]: character 0 in [7:0], character 1 in [15:8] (R30). -/
  saltCh : BitVec 16
  /-- KEY_LO, K[31:0] (R30). -/
  keyLo : Word
  /-- KEY_HI, K[63:32] (R30). -/
  keyHi : Word
  /-- DIG_LO, D[31:0] (R30). -/
  digLo : Word
  /-- DIG_HI, D[63:32] (R30). -/
  digHi : Word
  /-- OUTW0..OUTW3, string bytes 0..15 (R30). -/
  outW0 : Word
  outW1 : Word
  outW2 : Word
  outW3 : Word
deriving DecidableEq, Repr

/-- The hidden datapath state (10_state.md R37): no host access reaches it, and it is zero between commands (R38). -/
structure Datapath where
  /-- Left half of the DES block. -/
  l : BitVec 32
  /-- Right half of the DES block. -/
  r : BitVec 32
  /-- Upper half of the key register. -/
  c : BitVec 28
  /-- Lower half of the key register. -/
  dk : BitVec 28
  /-- The sixteen round keys KS[1..16], KS[1] first. -/
  ks : Vector (BitVec 48) 16
  /-- ITER, the iteration counter, 0..25. -/
  iter : Nat
  /-- RND, the DES round counter, 0..16. -/
  rnd : Nat
  /-- The working salt. -/
  salt : BitVec 12
  /-- The working key. -/
  key : Block
  /-- The working digest. -/
  digest : Block
deriving DecidableEq, Repr

/-- The hidden state between commands (R38) and after reset (R43). -/
def Datapath.zero : Datapath :=
  { l := 0, r := 0, c := 0, dk := 0, ks := Vector.replicate 16 0#48, iter := 0, rnd := 0, salt := 0, key := 0, digest := 0 }

/-- Storage (PASSBUF, SALTBUF and the context slots): pairs of a window offset and the byte there, in rising order.  An
offset that is not listed reads as `Memory.unlisted` of Machine/Ops.lean says (log 2, log 3). -/
abbrev Memory := List Host.Cell

/-- One event of the total order of 20_memory.md R74.  `host` says which host makes the access; the engine never reads
it (60_exceptions.md R271, R274; log 5).  Addresses are host bus addresses (R61), `width` counts bytes (R70), and a write
of n bytes carries them in the low n bytes of `value` (R67). -/
inductive BusEvent where
  | read (host addr width : Nat)
  | write (host addr width : Nat) (value : Word)
  /-- The platform's reset input is asserted (70_reset_and_hazards.md R290). -/
  | reset
deriving DecidableEq, Repr

/-- What a completed access answers to its host (log 6). -/
inductive Reply where
  | readData (host : Nat) (value : Word)
  | writeDone (host : Nat)
deriving DecidableEq, Repr

/-- The machine: the engine's architectural and hidden state (10_state.md R20), the parameters (R20, log 1), and four
fields of the model's own (logs 2, 4, 5 and 6). -/
structure State where
  /-- The parameters N_CTX and BASE: no step writes them (log 1). -/
  cfg : Config
  /-- The register page (R20(a)). -/
  regs : Regs
  /-- PASSBUF, SALTBUF and the context slots (R20(b)-(d)). -/
  mem : Memory
  /-- The hidden datapath state (R20(e)). -/
  hidden : Datapath
  /-- MODEL's own: how many reset events there have been; it selects the reset draws (log 2). -/
  epoch : Nat
  /-- MODEL's own: how many allocator draws have been taken; it selects the next answer (log 4). -/
  allocDraws : Nat
  /-- MODEL's own: the accesses and resets still to come, next one first (log 5). -/
  bus : List BusEvent
  /-- MODEL's own: what the last completed access answered (log 6). -/
  reply : Option Reply
deriving DecidableEq, Repr

/-- Why a step can stop: only a bus error (20_memory.md R66), which the model reports to the host as a fault and which
changes no engine state (60_exceptions.md R277; log 7).  No command stops. -/
inductive Fault where
  /-- Raised by `step` on an access whose address lies outside BASE .. BASE + 0x01FF_FFFF (R61): the engine does not
  answer it.  Safe (log 8). -/
  | outsideWindow (addr : Nat)
  /-- Raised by `step` on an access whose offset is unmapped (R61, R65, R66).  Safe (log 7). -/
  | unmapped (offset : Nat)
  /-- Raised by `step` on an access of a width the region does not admit: not 4 in the register page, not 1, 2 or 4
  elsewhere (R62, R69, R70).  Safe (log 7). -/
  | badWidth (offset width : Nat)
  /-- Raised by `step` on an access whose offset is not a multiple of its width (R62, R69).  Safe (log 7). -/
  | misaligned (offset width : Nat)
  /-- Raised by `step` on an access that crosses a region boundary (R66).  Safe (log 7). -/
  | crossesRegion (offset width : Nat)
deriving DecidableEq, Repr

/-- Why the model can decline to say what a command does. -/
inductive Refusal where
  /-- Raised by `exec` on a command that has no meaning yet; every command has one, so it is never raised.  Safe. -/
  | notModelled (mnemonic : String)
deriving DecidableEq, Repr

/-- Every register after reset (10_state.md R43). -/
def Regs.reset : Regs :=
  { ok := false, code := 0, args := 0, passLen := 0, saltLen := 0, ctxSize := 0, encArg := 0, encRes := 0,
    saltNum := 0, saltCh := 0, keyLo := 0, keyHi := 0, digLo := 0, digHi := 0,
    outW0 := 0, outW1 := 0, outW2 := 0, outW3 := 0 }

/-- The machine after its reset number `epoch` (70_reset_and_hazards.md R291), with `allocDraws` allocator answers
already taken and `bus` still to come: registers and hidden state 0, and no byte of storage written since, so that INIT
reads 0 and every other byte reads as its draw (R44, R45). -/
def State.resetWith (cfg : Config) (epoch allocDraws : Nat) (bus : List BusEvent) : State :=
  { cfg := cfg, regs := Regs.reset, mem := [], hidden := Datapath.zero, epoch := epoch, allocDraws := allocDraws,
    bus := bus, reply := none }

/-- The machine right after reset, with the default parameters and no access to come (R291, R292; logs 1, 2, 4, 5). -/
def State.reset : State := State.resetWith Config.default 0 0 []

end Sys2Proof.Machine
end

