-- ==== Sys2Proof/Machine/Datapath.lean ====
section
/-! DEFINITION. How the hidden datapath registers (10_state.md R37) carry out a digest (42_digest_engine.md R160, R173,
R174): the key schedule fills KS, ITER counts the encryptions and RND the Feistel rounds. -/

namespace Sys2Proof.Machine

/-- The working key and salt are loaded, and the halves C and Dk with them (R173's first line, R170). -/
def Datapath.load (k : Block) (s : BitVec 12) : Datapath :=
  { Datapath.zero with
    key := k
    salt := s
    c := (Des.pc1 k).extractLsb' 28 28
    dk := (Des.pc1 k).extractLsb' 0 28 }

/-- One step of the key schedule: both halves rotate left by `n`, and round key number i (counted from 0) is stored
(R173's loop body). -/
def Datapath.scheduleStep (i n : Nat) (d : Datapath) : Datapath :=
  { d with
    c := d.c.rotateLeft n
    dk := d.dk.rotateLeft n
    ks := d.ks.setIfInBounds i (Des.pc2 (d.c.rotateLeft n ++ d.dk.rotateLeft n)) }

/-- The key schedule from round key number i on, one step for each rotation amount left (R173's loop). -/
def Datapath.scheduleFrom : List Nat → Nat → Datapath → Datapath
  | [], _, d => d
  | n :: rest, i, d => Datapath.scheduleFrom rest (i + 1) (Datapath.scheduleStep i n d)

/-- One Feistel round with the round key that RND selects (R174's loop body). -/
def Datapath.round (d : Datapath) : Datapath :=
  { d with
    l := d.r
    r := d.l ^^^ Des.f d.r (d.ks.toList.getD d.rnd 0#48) d.salt
    rnd := d.rnd + 1 }

/-- `n` Feistel rounds. -/
def Datapath.rounds : Nat → Datapath → Datapath
  | 0, d => d
  | n + 1, d => Datapath.rounds n (Datapath.round d)

/-- The working digest is permuted into L and R, and RND starts at 0 (R174's first lines). -/
def Datapath.openBlock (d : Datapath) : Datapath :=
  { d with
    l := (Des.ip d.digest).extractLsb' 32 32
    r := (Des.ip d.digest).extractLsb' 0 32
    rnd := 0 }

/-- The exchanged halves are permuted into the working digest, and ITER counts the encryption (R174's last line). -/
def Datapath.closeBlock (d : Datapath) : Datapath :=
  { d with
    digest := Des.fp (d.r ++ d.l)
    iter := d.iter + 1 }

/-- One salted encryption of the working digest (R174). -/
def Datapath.encrypt (d : Datapath) : Datapath :=
  Datapath.closeBlock (Datapath.rounds Config.desRounds (Datapath.openBlock d))

/-- `n` chained encryptions (R160, R175). -/
def Datapath.iterate : Nat → Datapath → Datapath
  | 0, d => d
  | n + 1, d => Datapath.iterate n (Datapath.encrypt d)

/-- The datapath at the end of a digest of the zero block (R160): the result is its working digest. -/
def Datapath.run (k : Block) (s : BitVec 12) : Datapath :=
  Datapath.iterate Config.iterations (Datapath.scheduleFrom Des.shifts 0 (Datapath.load k s))

end Sys2Proof.Machine
end

