-- ==== Sys2Proof/Machine/Flags.lean ====
section
/-! DEFINITION. The engine's status: the numeric error codes and the words RESULT and ERR show (60_exceptions.md R260,
10_state.md R22, R23, R40). -/

namespace Sys2Proof.Machine

/-- `code(E)`: the value of ERR.CODE for each error (R260). -/
def ErrCode.value : ErrCode → BitVec 4
  | .none => 0#4
  | .invalidArgument => 1#4
  | .invalidSalt => 2#4
  | .unsupportedFormat => 3#4
  | .passphraseTooLong => 4#4
  | .rangeError => 5#4
  | .allocationError => 6#4
  | .illegalCommand => 7#4

/-- The word RESULT reads: OK in bit 0, the rest 0 (R22). -/
def resultWord (ok : Bool) : Word := if ok then 1#32 else 0#32

/-- The word ERR reads: CODE in bits [3:0], the rest 0 (R23). -/
def errWord (code : BitVec 4) : Word := code.setWidth 32

end Sys2Proof.Machine
end

