-- ==== Sys2Proof/Machine/Ops.lean ====
section
/-! DEFINITION. The named operations: register and state updates, storage (byte order, fills, the slot fields of
10_state.md R31), the two epilogues that end a command (60_exceptions.md R262, R263) and the context lifecycle
(44_hash_context.md R223, R224, R225, R228). -/

namespace Sys2Proof.Machine

/-! ## Register updates (10_state.md R21) -/

/-- RESULT.OK and ERR.CODE, the status every command but NOP writes (R22, R23). -/
def Regs.setStatus (r : Regs) (ok : Bool) (code : BitVec 4) : Regs := { r with ok := ok, code := code }

/-- ENC_RES (R29). -/
def Regs.setEncRes (r : Regs) (v : Byte) : Regs := { r with encRes := v }

/-- KEY_HI and KEY_LO from a key block: `K = {KEY_HI, KEY_LO}` (R30). -/
def Regs.setKey (r : Regs) (k : Block) : Regs := { r with keyHi := k.extractLsb' 32 32, keyLo := k.extractLsb' 0 32 }

/-- DIG_HI and DIG_LO from a digest: `D = {DIG_HI, DIG_LO}` (R30). -/
def Regs.setDigest (r : Regs) (d : Block) : Regs := { r with digHi := d.extractLsb' 32 32, digLo := d.extractLsb' 0 32 }

/-- OUTW0..OUTW3 (R30). -/
def Regs.setOutW (r : Regs) (w0 w1 w2 w3 : Word) : Regs := { r with outW0 := w0, outW1 := w1, outW2 := w2, outW3 := w3 }

/-- ARGS [1:0] (R25). -/
def Regs.setArgs (r : Regs) (v : BitVec 2) : Regs := { r with args := v }

/-- PASS_LEN (R26). -/
def Regs.setPassLen (r : Regs) (v : Word) : Regs := { r with passLen := v }

/-- SALT_LEN (R27). -/
def Regs.setSaltLen (r : Regs) (v : Word) : Regs := { r with saltLen := v }

/-- CTX_SIZE (R28). -/
def Regs.setCtxSize (r : Regs) (v : Word) : Regs := { r with ctxSize := v }

/-- ENC_ARG (R29). -/
def Regs.setEncArg (r : Regs) (v : Word) : Regs := { r with encArg := v }

/-- SALTNUM [11:0] (R30). -/
def Regs.setSaltNum (r : Regs) (v : BitVec 12) : Regs := { r with saltNum := v }

/-- SALTCH [15:0] (R30). -/
def Regs.setSaltCh (r : Regs) (v : BitVec 16) : Regs := { r with saltCh := v }

/-- KEY_LO (R30). -/
def Regs.setKeyLo (r : Regs) (v : Word) : Regs := { r with keyLo := v }

/-- KEY_HI (R30). -/
def Regs.setKeyHi (r : Regs) (v : Word) : Regs := { r with keyHi := v }

/-- DIG_LO (R30). -/
def Regs.setDigLo (r : Regs) (v : Word) : Regs := { r with digLo := v }

/-- DIG_HI (R30). -/
def Regs.setDigHi (r : Regs) (v : Word) : Regs := { r with digHi := v }

/-! ## State updates -/

/-- The register page replaced. -/
def State.setRegs (s : State) (r : Regs) : State := { s with regs := r }

/-- Storage replaced. -/
def State.setMem (s : State) (m : Memory) : State := { s with mem := m }

/-- The hidden datapath state replaced (R37). -/
def State.setHidden (s : State) (d : Datapath) : State := { s with hidden := d }

/-- One allocator draw counted as taken (44_hash_context.md R233, log 4). -/
def State.countDraw (s : State) : State := { s with allocDraws := s.allocDraws + 1 }

/-- An access completed: the events still to come, and what the access answered (logs 5 and 6). -/
def State.complete (s : State) (rest : List BusEvent) (reply : Reply) : State :=
  { s with bus := rest, reply := some reply }

/-! ## Storage (10_state.md R26, R27, R31; keys are window offsets, 20_memory.md R61; log 3) -/

/-- The offsets of the INIT words: bytes 0x180..0x183 of a 64 KiB slot window (R31, 20_memory.md R65). -/
def Memory.isInit (a : Nat) : Bool := 0x10000 ≤ a && 0x180 ≤ a % 0x10000 && a % 0x10000 < 0x184

/-- The reset value of a byte where the spec states one: 0 for INIT bytes, and no value for the drawn ones (R44, R45). -/
def Memory.known (a : Nat) : Option Byte := if Memory.isInit a then some 0#8 else none

/-- What an offset that is not listed reads as: its value after reset number `epoch`, which is 0 for INIT bytes and
otherwise the byte's draw, a free value (R44, R45; log 2). -/
def Memory.unlisted (epoch a : Nat) : Byte := (Memory.known a).getD (Config.resetDraw epoch a)

/-- The byte listed at an offset. -/
def Memory.find : Memory → Nat → Option Byte
  | [], _ => none
  | (b, v) :: rest, a => if b = a then some v else Memory.find rest a

/-- A byte listed at its place in the rising order, in place of one already listed there. -/
def Memory.insert : Memory → Nat → Byte → Memory
  | [], a, v => [(a, v)]
  | (b, w) :: rest, a, v =>
    if b < a then (b, w) :: Memory.insert rest a v
    else if b = a then (a, v) :: rest
    else (a, v) :: (b, w) :: rest

/-- One byte written, in canonical form: a byte that gets the value an unlisted offset is known to read as is not
listed (log 3). -/
def Memory.set (m : Memory) (a : Nat) (v : Byte) : Memory :=
  if Memory.known a = some v then m.filter (fun cell => cell.1 != a) else Memory.insert m a v

/-- The cells of `n` offsets from `lo` on that all hold `v`, in canonical form. -/
def Memory.block (lo n : Nat) (v : Byte) : Memory :=
  ((List.range' lo n).filter (fun a => Memory.known a != some v)).map (fun a => (a, v))

/-- `n` bytes from `lo` on all written with `v`. -/
def Memory.fill (m : Memory) (lo n : Nat) (v : Byte) : Memory :=
  m.filter (fun cell => cell.1 < lo) ++ (Memory.block lo n v ++ m.filter (fun cell => lo + n ≤ cell.1))

/-- The bytes of a list written from an offset on. -/
def Memory.write : Memory → Nat → List Byte → Memory
  | m, _, [] => m
  | m, a, b :: bs => Memory.write (Memory.set m a b) (a + 1) bs

/-- Strictly rising offsets. -/
def Memory.rising : Memory → Bool
  | [] => true
  | [_] => true
  | x :: y :: rest => x.1 < y.1 && Memory.rising (y :: rest)

/-- The canonical form: offsets strictly rising, and no entry equal to what an unlisted offset is known to read as
(log 3). -/
def Memory.wf (m : Memory) : Bool :=
  Memory.rising m && m.all (fun cell => Memory.known cell.1 != some cell.2)

/-- The byte stored at a window offset. -/
def State.byteAt (s : State) (a : Nat) : Byte := (Memory.find s.mem a).getD (Memory.unlisted s.epoch a)

/-- One byte stored. -/
def State.setByte (s : State) (a : Nat) (v : Byte) : State := s.setMem (Memory.set s.mem a v)

/-- `n` bytes from `lo` on stored with one value. -/
def State.fillBytes (s : State) (lo n : Nat) (v : Byte) : State := s.setMem (Memory.fill s.mem lo n v)

/-- A list of bytes stored from an offset on. -/
def State.writeBytes (s : State) (a : Nat) (bs : List Byte) : State := s.setMem (Memory.write s.mem a bs)

/-! ## Byte order (20_memory.md R67: little-endian) -/

/-- The first `n` bytes of a word, bits [7:0] first. -/
def leBytes (n : Nat) (v : Word) : List Byte := (List.range n).map (fun k => v.extractLsb' (8 * k) 8)

/-- The word whose bits [7:0] are the first byte, bits [15:8] the second, and so on. -/
def leWord (bs : List Byte) : Word := bs.foldr (fun b acc => (acc <<< 8) ||| b.setWidth 32) 0#32

/-- `MemRead` on storage: `n` bytes from an offset on, as one value (R67). -/
def State.readLE (s : State) (a n : Nat) : Word := leWord ((List.range n).map (fun k => s.byteAt (a + k)))

/-- `MemWrite` on storage: the low `n` bytes of a value, from an offset on (R67). -/
def State.writeLE (s : State) (a n : Nat) (v : Word) : State := s.writeBytes a (leBytes n v)

/-! ## Where the fields of storage stand (10_state.md R31, 20_memory.md R63-R65, 44_hash_context.md R241) -/

/-- The offset of PASSBUF[i] (20_memory.md R63). -/
def passAt (i : Nat) : Nat := 0x1000 + i

/-- The offset of SALTBUF[i] (20_memory.md R64). -/
def saltAt (i : Nat) : Nat := 0x1800 + i

/-- The offset of CTX[c].bytes[j] (20_memory.md R65); OUTPUT begins at j = 0. -/
def slotAt (c j : Nat) : Nat := 0x10000 * (c + 1) + j

/-- The offset of CTX[c].INIT (R31). -/
def initAt (c : Nat) : Nat := slotAt c 0x180

/-- The offset of CTX[c].SCRATCH[j] (R31). -/
def scratchAt (c j : Nat) : Nat := slotAt c (0x200 + j)

/-- CTX[c].INIT, a little-endian word (R32). -/
def State.initWord (s : State) (c : Nat) : Word := s.readLE (initAt c) 4

/-! ## The context lifecycle (44_hash_context.md R223, R225, R228) -/

/-- EnsureInitialized (R223): a slot whose INIT is 0 is zeroed whole and its INIT set to 1; any other is not touched. -/
def State.ensureInitialized (s : State) (c : Nat) : State :=
  if s.initWord c = 0#32 then
    (s.fillBytes (slotAt c 0) Config.ctxLayoutBytes 0#8).writeLE (initAt c) 4 1#32
  else s

/-- Scrub (R228): every SCRATCH byte of the slot is zeroed. -/
def State.scrub (s : State) (c : Nat) : State := s.fillBytes (scratchAt c 0) Config.scratchBytes 0#8

/-! ## The two epilogues (60_exceptions.md R262, R263) -/

/-- SuccessEpilogue (R263): OK = 1, CODE = 0, hidden state 0. -/
def State.successEpilogue (s : State) : State :=
  (s.setRegs (s.regs.setStatus true ErrCode.none.value)).setHidden Datapath.zero

/-- Scrub the slot that context resolution returned, if it returned one (R262). -/
def State.scrubResolved (s : State) : Option Nat → State
  | none => s
  | some c => s.scrub c

/-- FailureEpilogue (R262), the engine's whole reaction to `raise E` (R267: it has no traps): OK = 0, CODE = the error's
code, the resolved slot of a HASH scrubbed, hidden state 0. -/
def State.failureEpilogue (s : State) (e : ErrCode) (slot : Option Nat) : State :=
  ((s.setRegs (s.regs.setStatus false e.value)).scrubResolved slot).setHidden Datapath.zero

/-- An Illegal CMD word (R264, 30_encoding.md R97): the failure epilogue with IllegalCommand and no slot. -/
def State.illegalCommand (s : State) : State := s.failureEpilogue .illegalCommand none

/-! ## The digest computation (42_digest_engine.md R160) -/

/-- The hidden datapath computes `Digest(K, s)`; the result is its working digest. -/
def State.computeDigest (s : State) (k : Block) (salt : BitVec 12) : State := s.setHidden (Datapath.run k salt)

end Sys2Proof.Machine
end

