-- ==== Sys2Proof/Machine/Registers.lean ====
section
/-! DEFINITION. The register page as the host bus sees it (10_state.md R21, R35, R36): names, offsets, reads and writes. -/

namespace Sys2Proof.Machine

/-- The twenty registers (R21). -/
inductive RegName where
  | cmd | result | err | args | passLen | saltLen | ctxSize | encArg | encRes | saltNum
  | saltCh | keyLo | keyHi | digLo | digHi | outW0 | outW1 | outW2 | outW3 | config
deriving DecidableEq, Repr

/-- All registers, in the order of the page. -/
def allRegs : List RegName :=
  [.cmd, .result, .err, .args, .passLen, .saltLen, .ctxSize, .encArg, .encRes, .saltNum,
   .saltCh, .keyLo, .keyHi, .digLo, .digHi, .outW0, .outW1, .outW2, .outW3, .config]

/-- A register's byte offset (R21). -/
def regOffset : RegName → Nat
  | .cmd => 0x000
  | .result => 0x004
  | .err => 0x008
  | .args => 0x00C
  | .passLen => 0x010
  | .saltLen => 0x014
  | .ctxSize => 0x018
  | .encArg => 0x01C
  | .encRes => 0x020
  | .saltNum => 0x024
  | .saltCh => 0x028
  | .keyLo => 0x02C
  | .keyHi => 0x030
  | .digLo => 0x034
  | .digHi => 0x038
  | .outW0 => 0x03C
  | .outW1 => 0x040
  | .outW2 => 0x044
  | .outW3 => 0x048
  | .config => 0x04C

/-- The register at an offset of the page; a reserved offset (R36) has none. -/
def regAt (o : Nat) : Option RegName := allRegs.find? (fun n => regOffset n == o)

/-- What a host reads from a register (R35): its implemented bits, the others 0; CMD reads 0 (R24), and CONFIG reads
N_CTX in bits [8:0] (R30). -/
def State.readReg (s : State) : RegName → Word
  | .cmd => 0#32
  | .result => resultWord s.regs.ok
  | .err => errWord s.regs.code
  | .args => s.regs.args.setWidth 32
  | .passLen => s.regs.passLen
  | .saltLen => s.regs.saltLen
  | .ctxSize => s.regs.ctxSize
  | .encArg => s.regs.encArg
  | .encRes => s.regs.encRes.setWidth 32
  | .saltNum => s.regs.saltNum.setWidth 32
  | .saltCh => s.regs.saltCh.setWidth 32
  | .keyLo => s.regs.keyLo
  | .keyHi => s.regs.keyHi
  | .digLo => s.regs.digLo
  | .digHi => s.regs.digHi
  | .outW0 => s.regs.outW0
  | .outW1 => s.regs.outW1
  | .outW2 => s.regs.outW2
  | .outW3 => s.regs.outW3
  | .config => (BitVec.ofNat 9 s.cfg.nCtx).setWidth 32

/-- What a host's write leaves in the register page (R35): an RW register keeps its implemented bits of the value, an R
register ignores the write.  A write to CMD stores nothing (R24): that it executes a command is in Machine/Bus.lean. -/
def writeRegs (r : Regs) (n : RegName) (v : Word) : Regs :=
  match n with
  | .cmd => r
  | .result => r
  | .err => r
  | .args => r.setArgs (v.extractLsb' 0 2)
  | .passLen => r.setPassLen v
  | .saltLen => r.setSaltLen v
  | .ctxSize => r.setCtxSize v
  | .encArg => r.setEncArg v
  | .encRes => r
  | .saltNum => r.setSaltNum (v.extractLsb' 0 12)
  | .saltCh => r.setSaltCh (v.extractLsb' 0 16)
  | .keyLo => r.setKeyLo v
  | .keyHi => r.setKeyHi v
  | .digLo => r.setDigLo v
  | .digHi => r.setDigHi v
  | .outW0 => r
  | .outW1 => r
  | .outW2 => r
  | .outW3 => r
  | .config => r

end Sys2Proof.Machine
end

