-- ==== Sys2Proof/Machine/Bus.lean ====
section
/-! DEFINITION. Host accesses (20_memory.md): the window's regions, which accesses are admitted, what reads answer and
writes do, and the next event of the total order (R74). -/

namespace Sys2Proof.Machine

/-- The mapped regions of the window (R61). -/
inductive Region where
  | page
  | passBuf
  | saltBuf
  | slot (c : Nat)
deriving DecidableEq, Repr

/-- The region an offset lies in; `none` where it is unmapped (R61-R65). -/
def regionOf (cfg : Config) (o : Nat) : Option Region :=
  if o < 0x100 then some .page
  else if 0x1000 ≤ o ∧ o < 0x1000 + Config.passBufBytes then some .passBuf
  else if 0x1800 ≤ o ∧ o < 0x1800 + Config.saltBufBytes then some .saltBuf
  else if 0x10000 ≤ o ∧ o / 0x10000 - 1 < cfg.nCtx ∧ o % 0x10000 < Config.ctxLayoutBytes then
    some (.slot (o / 0x10000 - 1))
  else none

/-- The window offset of an admitted access of `n` bytes at a host address, or the bus error it is (R61, R62, R66, R69,
R70). -/
def admitAccess (cfg : Config) (addr n : Nat) : Except Fault Nat :=
  if addr < cfg.base ∨ cfg.base + Config.windowBytes ≤ addr then .error (.outsideWindow addr)
  else
    match regionOf cfg (addr - cfg.base) with
    | none => .error (.unmapped (addr - cfg.base))
    | some region =>
      if (region = .page ∧ n ≠ 4) ∨ (n ≠ 1 ∧ n ≠ 2 ∧ n ≠ 4) then .error (.badWidth (addr - cfg.base) n)
      else if (addr - cfg.base) % n ≠ 0 then .error (.misaligned (addr - cfg.base) n)
      else if regionOf cfg (addr - cfg.base + (n - 1)) ≠ some region then
        .error (.crossesRegion (addr - cfg.base) n)
      else .ok (addr - cfg.base)

/-- `MemRead` at an admitted offset (R67): a register, 0 at a reserved offset (10_state.md R36), or bytes of storage. -/
def State.hostRead (s : State) (o n : Nat) : Word :=
  if o < 0x100 then
    (match regAt o with
     | some r => s.readReg r
     | none => 0#32)
  else s.readLE o n

/-- `MemWrite` at an admitted offset other than CMD's (R67): a register, nothing at a reserved offset (10_state.md R36),
or bytes of storage. -/
def State.hostWrite (s : State) (o n : Nat) (v : Word) : State :=
  if o < 0x100 then
    (match regAt o with
     | some r => s.setRegs (writeRegs s.regs r v)
     | none => s)
  else s.writeLE o n v

/-- What the next event of the total order asks of the engine. -/
inductive Action where
  /-- No event is left: the engine waits (70_reset_and_hazards.md R292). -/
  | wait
  /-- The access is a bus error: no engine step (R66). -/
  | reject (f : Fault)
  /-- The access or the reset is done, and this is the state after it. -/
  | done (t : State)
  /-- The write to CMD is complete but for the command `w`, which executes within it (10_state.md R24, R72, R74). -/
  | command (w : Word) (t : State)
deriving DecidableEq, Repr

/-- A reset event (70_reset_and_hazards.md R290, R291): the parameters stay, storage draws afresh, the events still to
come stay, and the allocator's answers go on where they were (logs 2 and 4). -/
def State.resetEvent (s : State) (rest : List BusEvent) : State :=
  State.resetWith s.cfg (s.epoch + 1) s.allocDraws rest

/-- A host read (R67, R71): its answer, and no other change. -/
def State.readAction (s : State) (rest : List BusEvent) (host addr n : Nat) : Action :=
  match admitAccess s.cfg addr n with
  | .error f => .reject f
  | .ok o => .done (s.complete rest (.readData host (s.hostRead o n)))

/-- A host write (R67, R72): a write to CMD executes a command, any other changes a register or bytes of storage. -/
def State.writeAction (s : State) (rest : List BusEvent) (host addr n : Nat) (v : Word) : Action :=
  match admitAccess s.cfg addr n with
  | .error f => .reject f
  | .ok o =>
    if o = regOffset .cmd then .command v (s.complete rest (.writeDone host))
    else .done ((s.complete rest (.writeDone host)).hostWrite o n v)

/-- The next event of the total order (R74). -/
def State.nextAction (s : State) : Action :=
  match s.bus with
  | [] => .wait
  | .read host addr n :: rest => s.readAction rest host addr n
  | .write host addr n v :: rest => s.writeAction rest host addr n v
  | .reset :: rest => .done (s.resetEvent rest)

/-- The state in which the hosts go on after a bus error: the engine's state as it was, the rejected access gone (R66,
R277; log 7). -/
def State.afterBusError (s : State) : State := { s with bus := s.bus.tail }

/-- The CMD write that makes `w` the next command (10_state.md R24). -/
def cmdWrite (cfg : Config) (w : Word) : BusEvent := .write 0 (cfg.base + regOffset .cmd) 4 w

end Sys2Proof.Machine
end

