-- ==== Sys2Proof/Machine/Codec.lean ====
section
/-! DEFINITION. The pure functions of the Salt Codec, the Key Deriver and the Output Encoder (40_salt_codec.md R110-R112,
R119; 41_key_deriver.md R142; 43_output_encoder.md R200, R202). -/

namespace Sys2Proof.Machine

/-! ## The alphabet (40_salt_codec.md R110-R112) -/

/-- `encode6` (R111): the alphabet's byte at an index, total on 6-bit values. -/
def encode6 (v : BitVec 6) : Byte :=
  if v ≤ 11#6 then v.setWidth 8 + 0x2E#8
  else if v ≤ 37#6 then v.setWidth 8 + 0x35#8
  else v.setWidth 8 + 0x3B#8

/-- `decode6` (R112): the index of a byte in the alphabet, or `none` for a byte outside it. -/
def decode6 (b : Byte) : Option (BitVec 6) :=
  if 0x2E#8 ≤ b ∧ b ≤ 0x39#8 then some ((b - 0x2E#8).setWidth 6)
  else if 0x41#8 ≤ b ∧ b ≤ 0x5A#8 then some ((b - 0x35#8).setWidth 6)
  else if 0x61#8 ≤ b ∧ b ≤ 0x7A#8 then some ((b - 0x3B#8).setWidth 6)
  else none

/-- Numeric salt composition (R119): character 0 gives bits [5:0], character 1 bits [11:6]. -/
def saltNumber (v0 v1 : BitVec 6) : BitVec 12 := v1 ++ v0

/-! ## 7-bit packing (41_key_deriver.md R142) -/

/-- One key byte: the passphrase byte shifted left by one, bit 7 lost, bit 0 clear (R142, R143). -/
def keyByte (b : Byte) : Byte := b <<< 1

/-- The key block of eight bytes b_0 .. b_7: k_0 in K[63:56], k_7 in K[7:0] (R142, R147). -/
def packKey (b : Nat → Byte) : Block :=
  (List.range Config.keyBytes).foldl (fun k i => (k <<< 8) ||| (keyByte (b i)).setWidth 64) 0#64

/-! ## The output string (43_output_encoder.md R200, R202) -/

/-- The symbol c_i of `Encode11(D)`: encode6 of the low six bits of D shifted right by 6 i (R200, R201). -/
def digestSymbol (d : Block) (i : Nat) : Byte := encode6 ((d >>> (6 * i)).setWidth 6)

/-- `Encode11(D)`: eleven symbols, the least significant six bits first (R200). -/
def encode11 (d : Block) : List Byte := (List.range Config.outChars).map (digestSymbol d)

/-- `OutString`: the two canonical salt characters, the eleven symbols and NUL, 14 bytes (R202). -/
def outString (ch0 ch1 : Byte) (d : Block) : List Byte := ch0 :: ch1 :: (encode11 d ++ [0x00#8])

end Sys2Proof.Machine
end

