-- ==== Sys2Proof/Machine/Operands.lean ====
section
/-! DEFINITION. Where commands take their operands from (30_encoding.md R95): the presence bits, the salt text, the
passphrase, the component registers and the context slot. -/

namespace Sys2Proof.Machine

/-- ARGS.PASS_PRESENT (10_state.md R25). -/
def State.passPresent (s : State) : Bool := s.regs.args.getLsbD 0

/-- ARGS.SALT_PRESENT (10_state.md R25). -/
def State.saltPresent (s : State) : Bool := s.regs.args.getLsbD 1

/-- SALTBUF[i] (10_state.md R27). -/
def State.saltByte (s : State) (i : Nat) : Byte := s.byteAt (saltAt i)

/-- PASSBUF[i] (10_state.md R26). -/
def State.passByte (s : State) (i : Nat) : Byte := s.byteAt (passAt i)

/-- `K = {KEY_HI, KEY_LO}` (10_state.md R30). -/
def State.keyBlock (s : State) : Block := s.regs.keyHi ++ s.regs.keyLo

/-- `D = {DIG_HI, DIG_LO}` (10_state.md R30). -/
def State.digestBlock (s : State) : Block := s.regs.digHi ++ s.regs.digLo

/-! ## The salt (40_salt_codec.md R115) -/

/-- What SaltDecode returns: the numeric salt and the two canonical characters (R115, R120). -/
structure DecodedSalt where
  salt : BitVec 12
  ch0 : Byte
  ch1 : Byte
deriving DecidableEq, Repr

/-- The last part of SaltDecode: both characters must be in the alphabet (R118, R119, R120). -/
def saltOfChars (ch0 ch1 : Byte) : Except ErrCode DecodedSalt :=
  match decode6 ch0, decode6 ch1 with
  | some v0, some v1 => .ok { salt := saltNumber v0 v1, ch0 := ch0, ch1 := ch1 }
  | _, _ => .error .invalidSalt

/-- `SaltDecode()` (R115): presence, then the format marker `$`, then the length, then the characters. -/
def State.saltDecode (s : State) : Except ErrCode DecodedSalt :=
  if s.saltPresent = false then .error .invalidArgument
  else if 1 ≤ s.regs.saltLen.toNat ∧ s.saltByte 0 = 0x24#8 then .error .unsupportedFormat
  else if s.regs.saltLen.toNat < Config.saltChars then .error .invalidSalt
  else saltOfChars (s.saltByte 0) (s.saltByte 1)

/-! ## The passphrase (41_key_deriver.md R147) -/

/-- `b_i`: passphrase byte i, or 0x00 beyond the passphrase's end (R142). -/
def State.keySource (s : State) (i : Nat) : Byte := if i < s.regs.passLen.toNat then s.passByte i else 0x00#8

/-- `KeyDerive()` (R147): presence, then the length limit, then the packing. -/
def State.keyDerive (s : State) : Except ErrCode Block :=
  if s.passPresent = false then .error .invalidArgument
  else if Config.passMax ≤ s.regs.passLen.toNat then .error .passphraseTooLong
  else .ok (packKey s.keySource)

/-! ## The context slot (44_hash_context.md R222, R230-R234) -/

/-- The MODE field of HASH (30_encoding.md R93). -/
inductive HashMode where
  | shared
  | reentrant
  | sized
  | growing
deriving DecidableEq, Repr

/-- CheckIndex's condition: the slot is a caller-owned one that exists (R230). -/
def State.indexOk (s : State) (c : Nat) : Bool := c ≠ 0 && c < s.cfg.nCtx

/-- `ResolveContext(m, c)` (R222): the slot of the mode.  GROWING's answer is the allocator's next draw, a free value
(R233, log 4). -/
def State.resolveContext (s : State) (m : HashMode) (c : Nat) : Except ErrCode Nat :=
  match m with
  | .shared => .ok 0
  | .reentrant => if s.indexOk c then .ok c else .error .invalidArgument
  | .sized =>
    if s.indexOk c then
      (if s.regs.ctxSize.toNat < Config.ctxLayoutBytes then .error .rangeError else .ok c)
    else .error .invalidArgument
  | .growing =>
    if s.indexOk c then
      (if Config.allocDraw s.allocDraws then .ok c else .error .allocationError)
    else .error .invalidArgument

/-- The draws that context resolution takes: one by GROWING after its index check, none by the other modes (R233). -/
def State.afterResolve (s : State) (m : HashMode) (c : Nat) : State :=
  if m = .growing ∧ s.indexOk c = true then s.countDraw else s

/-! ## The output's capacity (43_output_encoder.md R203) -/

/-- The Output Encoder's capacity check: fewer than 14 bytes is a RangeError.  Every destination of this engine is
large enough, so it never fires. -/
def capacityCheck (destBytes : Nat) : Except ErrCode Unit :=
  if destBytes < Config.outBytes then .error .rangeError else .ok ()

end Sys2Proof.Machine
end

