-- ==== Sys2Proof/Machine/DigestEngine.lean ====
section
/-! DEFINITION. The Digest Engine's command DIGEST (42_digest_engine.md R178). -/

namespace Sys2Proof.Machine

/-- The working digest of the hidden datapath stored in DIG_HI and DIG_LO. -/
def State.storeDigest (s : State) : State := s.setRegs (s.regs.setDigest s.hidden.digest)

/-- DIGEST (R178): the digest of the key registers under SALTNUM, always a success. -/
def execDigest (s : State) : Host.Outcome State Fault Refusal :=
  .next (s.computeDigest s.keyBlock s.regs.saltNum).storeDigest.successEpilogue

end Sys2Proof.Machine
end

