-- ==== Sys2Proof/Machine/HashContext.lean ====
section
/-! DEFINITION. HASH in its four modes, CTX_INIT and NOP (44_hash_context.md). -/

namespace Sys2Proof.Machine

/-! ## The phases of HASH (R221) -/

/-- The first byte of the failure token (R225): `*` for an unusable salt (absent, empty, or first byte NUL or `*`),
otherwise the salt's first byte. -/
def State.tokenByte (s : State) : Byte :=
  if s.saltPresent = false ∨ s.regs.saltLen = 0#32 ∨ s.saltByte 0 = 0x00#8 ∨ s.saltByte 0 = 0x2A#8 then 0x2A#8
  else s.saltByte 0

/-- WriteFailureToken (R224, R225): the token's three bytes at OUTPUT[0..2]. -/
def State.writeFailureToken (s : State) (slot : Nat) : State :=
  s.writeBytes (slotAt slot 0) [s.tokenByte, 0x30#8, 0x00#8]

/-- What HASH's validation yields: the decoded salt and the key block. -/
structure HashInputs where
  salt : DecodedSalt
  key : Block
deriving DecidableEq, Repr

/-- HASH's phase 3 (R221, R226, 60_exceptions.md R265): presence of both arguments, the salt, the passphrase, and the
capacity check that never fires. -/
def State.hashInputs (s : State) : Except ErrCode HashInputs :=
  if s.passPresent = false ∨ s.saltPresent = false then .error .invalidArgument
  else
    match s.saltDecode with
    | .error e => .error e
    | .ok d =>
      match s.keyDerive with
      | .error e => .error e
      | .ok k =>
        match capacityCheck Config.outFieldBytes with
        | .error e => .error e
        | .ok _ => .ok { salt := d, key := k }

/-- The 14-byte output string written to OUTPUT[0..13] from the working digest (R227). -/
def State.writeResult (s : State) (slot : Nat) (ch0 ch1 : Byte) : State :=
  s.writeBytes (slotAt slot 0) (outString ch0 ch1 s.hidden.digest)

/-- HASH's phases 2 to 5 on a resolved slot (R221): initialize, write the token, validate, compute and write, scrub. -/
def State.hashOn (s : State) (slot : Nat) : State :=
  let s1 := (s.ensureInitialized slot).writeFailureToken slot
  match s1.hashInputs with
  | .error e => s1.failureEpilogue e (some slot)
  | .ok inp =>
    (((s1.computeDigest inp.key inp.salt.salt).writeResult slot inp.salt.ch0 inp.salt.ch1).scrub slot).successEpilogue

/-- HASH (R221): phase 1 resolves the context, and a failure there writes no slot. -/
def State.hash (s : State) (m : HashMode) (c : Nat) : State :=
  match s.resolveContext m c with
  | .error e => (s.afterResolve m c).failureEpilogue e none
  | .ok slot => (s.afterResolve m c).hashOn slot

/-! ## The commands -/

/-- HASH.SHARED (R231): slot 0. -/
def execHashShared (s : State) : Host.Outcome State Fault Refusal := .next (s.hash .shared 0)

/-- HASH.REENTRANT (R234): slot c after the index check (R230). -/
def execHashReentrant (c : Nat) (s : State) : Host.Outcome State Fault Refusal := .next (s.hash .reentrant c)

/-- HASH.SIZED (R232): slot c, with CTX_SIZE checked. -/
def execHashSized (c : Nat) (s : State) : Host.Outcome State Fault Refusal := .next (s.hash .sized c)

/-- HASH.GROWING (R233): slot c after one allocator draw. -/
def execHashGrowing (c : Nat) (s : State) : Host.Outcome State Fault Refusal := .next (s.hash .growing c)

/-- CTX_INIT (R235): ensure-initialized of a slot that exists, slot 0 included; no scrub and no token. -/
def execCtxInit (c : Nat) (s : State) : Host.Outcome State Fault Refusal :=
  if s.cfg.nCtx ≤ c then .next (s.failureEpilogue .invalidArgument none)
  else .next (s.ensureInitialized c).successEpilogue

/-- NOP (R236): no state changes at all. -/
def execNop (s : State) : Host.Outcome State Fault Refusal := .next s

end Sys2Proof.Machine
end

