-- ==== Sys2Proof/Machine/KeyDeriver.lean ====
section
/-! DEFINITION. The Key Deriver's command KEY_DERIVE (41_key_deriver.md R148). -/

namespace Sys2Proof.Machine

/-- KEY_DERIVE (R148): KEY_HI and KEY_LO on success; on failure they keep their values. -/
def execKeyDerive (s : State) : Host.Outcome State Fault Refusal :=
  match s.keyDerive with
  | .error e => .next (s.failureEpilogue e none)
  | .ok k => .next (s.setRegs (s.regs.setKey k)).successEpilogue

end Sys2Proof.Machine
end

