-- ==== Sys2Proof/Machine/OutputEncoder.lean ====
section
/-! DEFINITION. The Output Encoder's command OUT_ENCODE (43_output_encoder.md R204). -/

namespace Sys2Proof.Machine

/-- The 16-byte image of OUT_ENCODE: the output string of the salt characters and the digest registers, and two zero
bytes (R204). -/
def State.outImage (s : State) : List Byte :=
  outString (s.regs.saltCh.extractLsb' 0 8) (s.regs.saltCh.extractLsb' 8 8) s.digestBlock ++ [0x00#8, 0x00#8]

/-- OUTW(w) of a 16-byte image: its bytes 4w .. 4w+3, the first in bits [7:0] (R204, 10_state.md R30). -/
def imageWord (image : List Byte) (w : Nat) : Word := leWord ((image.drop (4 * w)).take 4)

/-- OUT_ENCODE (R204): the image in OUTW0..OUTW3, always a success. -/
def execOutEncode (s : State) : Host.Outcome State Fault Refusal :=
  .next (s.setRegs (s.regs.setOutW (imageWord s.outImage 0) (imageWord s.outImage 1) (imageWord s.outImage 2)
    (imageWord s.outImage 3))).successEpilogue

end Sys2Proof.Machine
end

