-- ==== Sys2Proof/Machine/SaltCodec.lean ====
section
/-! DEFINITION. The Salt Codec's commands SALT_DECODE and ENCODE6 (40_salt_codec.md R121, R122). -/

namespace Sys2Proof.Machine

/-- SALT_DECODE (R121): SALTNUM and SALTCH on success; on failure they keep their values. -/
def execSaltDecode (s : State) : Host.Outcome State Fault Refusal :=
  match s.saltDecode with
  | .error e => .next (s.failureEpilogue e none)
  | .ok d => .next (s.setRegs ((s.regs.setSaltNum d.salt).setSaltCh (d.ch1 ++ d.ch0))).successEpilogue

/-- ENCODE6 (R122): ENC_RES from a 6-bit ENC_ARG; a wider ENC_ARG is an InvalidArgument and ENC_RES keeps its value. -/
def execEncode6 (s : State) : Host.Outcome State Fault Refusal :=
  if 63 < s.regs.encArg.toNat then .next (s.failureEpilogue .invalidArgument none)
  else .next (s.setRegs (s.regs.setEncRes (encode6 (s.regs.encArg.extractLsb' 0 6)))).successEpilogue

end Sys2Proof.Machine
end

