-- ==== Sys2Proof/Machine/Dispatch.lean ====
section
/-! DEFINITION. The dispatch of a decoded command to its meaning, one arm for each row of the opcode table. -/

namespace Sys2Proof.Machine

/-- The effect of one command (30_encoding.md R92). -/
def exec (i : Instr) (s : State) : Host.Outcome State Fault Refusal :=
  match i with
  | .nop => Sys2Proof.Machine.execNop s
  | .hashShared => Sys2Proof.Machine.execHashShared s
  | .hashReentrant c => Sys2Proof.Machine.execHashReentrant c s
  | .hashSized c => Sys2Proof.Machine.execHashSized c s
  | .hashGrowing c => Sys2Proof.Machine.execHashGrowing c s
  | .ctxInit c => Sys2Proof.Machine.execCtxInit c s
  | .saltDecode => Sys2Proof.Machine.execSaltDecode s
  | .encode6 => Sys2Proof.Machine.execEncode6 s
  | .keyDerive => Sys2Proof.Machine.execKeyDerive s
  | .digest => Sys2Proof.Machine.execDigest s
  | .outEncode => Sys2Proof.Machine.execOutEncode s

end Sys2Proof.Machine
end

