-- ==== Sys2Proof/Machine/Step.lean ====
section
/-! DEFINITION. One step: the next event of the total order of host accesses (20_memory.md R74). -/

namespace Sys2Proof.Machine

/-- A CMD write of `w` (10_state.md R24): the decoded command executes, and an Illegal word runs the failure epilogue with
IllegalCommand (60_exceptions.md R264). -/
def runCommand (w : Word) (s : State) : Host.Outcome State Fault Refusal :=
  match decode w with
  | .ok i => exec i s
  | .error _ => .next s.illegalCommand

/-- One event of the total order: an access with all its effect, or a reset; with none left the engine waits. -/
def step (s : State) : Host.Outcome State Fault Refusal :=
  match s.nextAction with
  | .wait => .next s
  | .reject f => .fault f
  | .done t => .next t
  | .command w t => runCommand w t

/-- `s` with a CMD write of the word `w` as the very next event (log 9). -/
def State.withFetchWord (s : State) (nbits w : Nat) : State :=
  { s with bus := cmdWrite s.cfg (BitVec.ofNat 32 (w % 2 ^ nbits)) :: s.bus }

end Sys2Proof.Machine
end

