-- ==== Sys2Proof/Machine/Asm.lean ====
section
/-! DEFINITION. The spec's assembler (30_encoding.md R101, R102): the text of a command, the host-access lines, and the
pseudo-instructions, each the list of bus events it expands to.  A pseudo-instruction is not atomic: each of its lines is
a bus access of its own, so the events of other hosts may fall between them (R102). -/

namespace Sys2Proof.Machine

/-- The syntax of a command (R101), its slot index in decimal. -/
def asmText : Instr → String
  | .nop => "nop"
  | .hashShared => "hash.shared"
  | .hashReentrant c => "hash.reent " ++ toString c
  | .hashSized c => "hash.sized " ++ toString c
  | .hashGrowing c => "hash.grow " ++ toString c
  | .ctxInit c => "ctx.init " ++ toString c
  | .saltDecode => "salt.decode"
  | .encode6 => "enc6"
  | .keyDerive => "key.derive"
  | .digest => "digest"
  | .outEncode => "out.encode"

/-- `wr NAME, v` (R101). -/
def wr (cfg : Config) (host : Nat) (n : RegName) (v : Word) : BusEvent := .write host (cfg.base + regOffset n) 4 v

/-- `rd NAME` (R101). -/
def rd (cfg : Config) (host : Nat) (n : RegName) : BusEvent := .read host (cfg.base + regOffset n) 4

/-- `wr8 OFF, v`, `wr16 OFF, v` and `wr32 OFF, v` for a width of 1, 2 and 4 bytes (R101). -/
def wrAt (cfg : Config) (host width off : Nat) (v : Word) : BusEvent := .write host (cfg.base + off) width v

/-- `rd8 OFF`, `rd16 OFF` and `rd32 OFF` for a width of 1, 2 and 4 bytes (R101). -/
def rdAt (cfg : Config) (host width off : Nat) : BusEvent := .read host (cfg.base + off) width

/-- A command line: a CMD write of its word (R102). -/
def asmCommand (cfg : Config) (host : Nat) (i : Instr) : BusEvent := wr cfg host .cmd (encode i)

/-- One `wr8` for each byte of a list, from an offset on. -/
def wrBytes (cfg : Config) (host : Nat) : Nat → List Byte → List BusEvent
  | _, [] => []
  | off, b :: bs => wrAt cfg host 1 off (b.setWidth 32) :: wrBytes cfg host (off + 1) bs

/-- `setpass "bytes"` (R102). -/
def setpass (cfg : Config) (host : Nat) (bytes : List Byte) : List BusEvent :=
  wrBytes cfg host (passAt 0) bytes ++ [wr cfg host .passLen (BitVec.ofNat 32 bytes.length)]

/-- `setsalt "bytes"`, for at most 16 bytes (R102). -/
def setsalt (cfg : Config) (host : Nat) (bytes : List Byte) : List BusEvent :=
  wrBytes cfg host (saltAt 0) bytes ++ [wr cfg host .saltLen (BitVec.ofNat 32 bytes.length)]

/-- `setargs` (R102): both arguments present. -/
def setargs (cfg : Config) (host : Nat) : List BusEvent := [wr cfg host .args 3#32]

/-- `setkey K` (R102). -/
def setkey (cfg : Config) (host : Nat) (k : Block) : List BusEvent :=
  [wr cfg host .keyHi (k.extractLsb' 32 32), wr cfg host .keyLo (k.extractLsb' 0 32)]

/-- `setdig D` (R102). -/
def setdig (cfg : Config) (host : Nat) (d : Block) : List BusEvent :=
  [wr cfg host .digHi (d.extractLsb' 32 32), wr cfg host .digLo (d.extractLsb' 0 32)]

/-- The input lines that `crypt.shared` and `crypt.reent` share (R102). -/
def cryptInputs (cfg : Config) (host : Nat) (p s : List Byte) : List BusEvent :=
  setpass cfg host p ++ setsalt cfg host s ++ setargs cfg host

/-- `crypt.shared "p", "s"` (R102). -/
def cryptShared (cfg : Config) (host : Nat) (p s : List Byte) : List BusEvent :=
  cryptInputs cfg host p s ++ [asmCommand cfg host .hashShared]

/-- `crypt.reent c, "p", "s"` (R102). -/
def cryptReent (cfg : Config) (host c : Nat) (p s : List Byte) : List BusEvent :=
  cryptInputs cfg host p s ++ [asmCommand cfg host (.hashReentrant c)]

end Sys2Proof.Machine
end

