-- ==== Sys2Proof/Safety.lean ====
section
/-! DEFINITION. What the claims call a safe state and a safe run, and the words in which they say what HASH does: the
invariants of the engine's state, bus orders without a bus error, the error HASH reports, and the bytes it leaves. -/

namespace Sys2Proof.Machine

/-! ## Invariants -/

/-- Every listed byte stands in PASSBUF, SALTBUF or a slot that exists (20_memory.md R61). -/
def Memory.mapped (cfg : Config) (m : Memory) : Bool :=
  m.all (fun cell => (regionOf cfg cell.1).isSome && (regionOf cfg cell.1 != some .page))

/-- RESULT and ERR agree: OK only with CODE 0 (10_state.md R22, R23), and never a code above 7 (60_exceptions.md R260). -/
abbrev Regs.StatusLegal (r : Regs) : Prop := (r.ok = true → r.code = 0#4) ∧ r.code ≤ 7#4

/-- The invariant of the engine: legal parameters, canonical storage inside the map, the hidden state zero between
commands (10_state.md R38) and a legal status. -/
abbrev State.Inv (s : State) : Prop :=
  s.cfg.Legal ∧ Memory.wf s.mem = true ∧ Memory.mapped s.cfg s.mem = true ∧ s.hidden = Datapath.zero ∧
    s.regs.StatusLegal

/-! ## Bus orders without a bus error -/

/-- The event is a reset or an admitted access (20_memory.md R66). -/
def eventAdmitted (cfg : Config) : BusEvent → Bool
  | .read _ addr n => (admitAccess cfg addr n).isOk
  | .write _ addr n _ => (admitAccess cfg addr n).isOk
  | .reset => true

/-- No access still to come is a bus error. -/
abbrev State.BusClean (s : State) : Prop := s.bus.all (eventAdmitted s.cfg) = true

/-! ## HASH -/

/-- The command of a HASH mode (30_encoding.md R93); SHARED takes no slot. -/
def hashOf : HashMode → Nat → Instr
  | .shared, _ => .hashShared
  | .reentrant, c => .hashReentrant c
  | .sized, c => .hashSized c
  | .growing, c => .hashGrowing c

/-- The slot that HASH names: slot 0 in SHARED mode, slot c in the others (30_encoding.md R93). -/
def slotOf : HashMode → Nat → Nat
  | .shared, _ => 0
  | .reentrant, c => c
  | .sized, c => c
  | .growing, c => c

/-- The error that HASH's validation reports, the first of items 4 to 7 of 60_exceptions.md R265; none if no cause
applies. -/
def State.firstHashError (s : State) : Option ErrCode :=
  if s.passPresent = false ∨ s.saltPresent = false then some .invalidArgument
  else if 1 ≤ s.regs.saltLen.toNat ∧ s.saltByte 0 = 0x24#8 then some .unsupportedFormat
  else if s.regs.saltLen.toNat < 2 ∨ decode6 (s.saltByte 0) = none ∨ decode6 (s.saltByte 1) = none then
    some .invalidSalt
  else if 512 ≤ s.regs.passLen.toNat then some .passphraseTooLong
  else none

/-- The failure token of 44_hash_context.md R225. -/
def State.failureToken (s : State) : List Byte := [s.tokenByte, 0x30#8, 0x00#8]

/-- The byte at an offset after a HASH on a slot that began in `s` and left `out` at the start of OUTPUT
(44_hash_context.md R221): `out`, then zeros in SCRATCH (R228), then the zeroed slot with INIT = 1 where the slot was
fresh (R223), and everything else as before. -/
def State.byteAfterHash (s : State) (slot : Nat) (out : List Byte) (b : Nat) : Byte :=
  if slotAt slot 0 ≤ b ∧ b < slotAt slot 0 + out.length then out.getD (b - slotAt slot 0) 0#8
  else if scratchAt slot 0 ≤ b ∧ b < scratchAt slot 0 + 32768 then 0#8
  else if s.initWord slot = 0#32 ∧ slotAt slot 0 ≤ b ∧ b < slotAt slot 0 + 33280 then
    (if b = initAt slot then 1#8 else 0#8)
  else s.byteAt b

/-- What a command that reports `ok` and `code` and stores only in slots leaves of everything but storage: the status
written, the hidden state zero, every other register, the parameters, the events still to come and the last answer as
they were. -/
abbrev State.OnlyStatus (s t : State) (ok : Bool) (code : BitVec 4) : Prop :=
  t.regs = { s.regs with ok := ok, code := code } ∧ t.hidden = Datapath.zero ∧ t.cfg = s.cfg ∧ t.epoch = s.epoch ∧
    t.bus = s.bus ∧ t.reply = s.reply

end Sys2Proof.Machine
end

