-- ==== Sys2Proof/Certificates/Slice0/Obligations.lean ====
section
/-! DEFINITION. The statements for the provers, from the numbered rules of spec/.  `next` is Host.Outcome.next.  A statement
that speaks of `Config.resetDraw` or `Config.allocDraw` holds whatever those free values are (logs 2 and 4).  The fields
`epoch`, `allocDraws`, `bus` and `reply` of the state are the model's own (logs 2, 4, 5 and 6): a clause about one of them
is the model's choice, and a statement with such a clause has basis derived or cites the log for it. -/

open Sys2Proof Sys2Proof.Machine

/-! ## Encoding (30_encoding.md) -/

/-- Every command, with every slot index its field admits, decodes back from its word (R91-R94, R103). -/
def Obligations.DecodeInvertsEncode : Prop :=
  ∀ i : Instr, WellFormed i → decode (encode i) = .ok i

/-- A word that decodes is the word of the command it decodes to, and that command is well formed (R103). -/
def Obligations.EncodeInvertsDecode : Prop :=
  ∀ (w : Word) (i : Instr), decode w = .ok i → WellFormed i ∧ encode i = w

/-- The legal words are seven fixed words and four families of 256 words (the spec's inference in R103 from R91, R92, R96
and R97). -/
def Obligations.LegalWordsAreTheTable : Prop :=
  ∀ w : Word, (∃ i, decode w = .ok i) ↔
    (w ∈ [0x00#32, 0x01#32, 0x10#32, 0x11#32, 0x20#32, 0x30#32, 0x40#32] ∨
      ∃ c : Nat, c < 256 ∧
        w ∈ [BitVec.ofNat 32 (0x101 + c * 65536), BitVec.ofNat 32 (0x201 + c * 65536),
             BitVec.ofNat 32 (0x301 + c * 65536), BitVec.ofNat 32 (0x2 + c * 65536)])

/-- A word is Illegal exactly when its OP is reserved or it breaks a constraint of R96, and a CMD write of an Illegal word
changes nothing but RESULT and ERR (R96, R97, R98).  (The hidden state is zero before it in every reachable state.  That the
access is taken off the bus and answered is the model's choice, logs 5 and 6.) -/
def Obligations.IllegalWordsOnlyReport : Prop :=
  (∀ w : Word, (∃ e, decode w = .error e) ↔
    (opField w ∉ [0x00#8, 0x01#8, 0x02#8, 0x10#8, 0x11#8, 0x20#8, 0x30#8, 0x40#8] ∨
     rsv0Field w ≠ 0#6 ∨ rsv1Field w ≠ 0#8 ∨
     (opField w ≠ 0x01#8 ∧ modeField w ≠ 0#2) ∨
     (opField w ∉ [0x01#8, 0x02#8] ∧ ctxField w ≠ 0#8) ∨
     (opField w = 0x01#8 ∧ modeField w = 0#2 ∧ ctxField w ≠ 0#8))) ∧
  (∀ (s : State) (host : Nat) (w : Word) (rest : List BusEvent) (e : IllegalWord),
    s.bus = .write host s.cfg.base 4 w :: rest → decode w = .error e →
    step s = .next { s with regs := { s.regs with ok := false, code := 7#4 }, hidden := Datapath.zero,
                            bus := rest, reply := some (.writeDone host) })

/-- A few words of the table, written out, decode to their commands (95_test_vectors.md 2.8). -/
def Obligations.DecodeReadsTheTableWords : Prop :=
  decode 0x00000000#32 = .ok .nop ∧ decode 0x00000001#32 = .ok .hashShared ∧
  decode 0x00020101#32 = .ok (.hashReentrant 2) ∧ decode 0x00FF0201#32 = .ok (.hashSized 255) ∧
  decode 0x00030301#32 = .ok (.hashGrowing 3) ∧ decode 0x00040002#32 = .ok (.ctxInit 4) ∧
  decode 0x00000010#32 = .ok .saltDecode ∧ decode 0x00000011#32 = .ok .encode6 ∧
  decode 0x00000020#32 = .ok .keyDerive ∧ decode 0x00000030#32 = .ok .digest ∧
  decode 0x00000040#32 = .ok .outEncode

/-! ## The step -/

/-- A CMD write whose word decodes to a command runs exactly that command: the access is taken off the bus and answered,
and nothing else is added around the command (10_state.md R24, 20_memory.md R72, R74; the access taken off and the answer
are the model's fields, logs 5 and 6). -/
def Obligations.StepRunsTheDecodedCommand : Prop :=
  ∀ (s : State) (host : Nat) (w : Word) (rest : List BusEvent) (i : Instr),
    s.bus = .write host s.cfg.base 4 w :: rest → decode w = .ok i →
    step s = exec i { s with bus := rest, reply := some (.writeDone host) }

/-- With no access to come the engine waits and nothing changes (70_reset_and_hazards.md R292; that a step then stays is the
model's choice, log 9). -/
def Obligations.EngineWaitsForTheNextAccess : Prop :=
  ∀ s : State, s.bus = [] → step s = .next s

/-- Nothing but a bus error stops the machine, and no command is refused: a step faults exactly when its access is not
admitted (20_memory.md R66, 60_exceptions.md R277; that the model stops there is its choice, log 7). -/
def Obligations.OnlyBusErrorsStop : Prop :=
  ∀ s : State, (∀ r, step s ≠ .refused r) ∧
    ((∃ f, step s = .fault f) ↔ ∃ (ev : BusEvent) (rest : List BusEvent), s.bus = ev :: rest ∧ eventAdmitted s.cfg ev = false)

/-! ## NOP, CTX_INIT -/

/-- NOP changes no state at all, and only the word 0 is NOP (44_hash_context.md R236). -/
def Obligations.NopChangesNothing : Prop :=
  (∀ s : State, exec .nop s = .next s) ∧ ∀ w : Word, decode w = .ok .nop ↔ w = 0#32

/-- CTX_INIT of a slot that exists and whose INIT is 0 zeroes all its bytes and sets INIT to 1; nothing else changes but
RESULT and ERR (44_hash_context.md R223, R235). -/
def Obligations.CtxInitZeroesAFreshSlot : Prop :=
  ∀ (s : State) (c : Nat), c < s.cfg.nCtx → s.initWord c = 0#32 →
    ∃ t : State, exec (.ctxInit c) s = .next t ∧ s.OnlyStatus t true 0#4 ∧ t.allocDraws = s.allocDraws ∧
      t.initWord c = 1#32 ∧
      (∀ j, j < 33280 → (j < 0x180 ∨ 0x184 ≤ j) → t.byteAt (slotAt c j) = 0#8) ∧
      (∀ b, (b < slotAt c 0 ∨ slotAt c 33280 ≤ b) → t.byteAt b = s.byteAt b)

/-- CTX_INIT of a slot that exists and is initialized changes nothing but RESULT and ERR; of a slot that does not exist it
is an InvalidArgument (44_hash_context.md R235). -/
def Obligations.CtxInitOtherwiseOnlyReports : Prop :=
  ∀ (s : State) (c : Nat),
    (c < s.cfg.nCtx → s.initWord c ≠ 0#32 → exec (.ctxInit c) s =
      .next { s with regs := { s.regs with ok := true, code := 0#4 }, hidden := Datapath.zero }) ∧
    (s.cfg.nCtx ≤ c → exec (.ctxInit c) s =
      .next { s with regs := { s.regs with ok := false, code := 1#4 }, hidden := Datapath.zero })

/-- A second CTX_INIT of the same slot changes nothing (44_hash_context.md R223, R235: idempotent). -/
def Obligations.CtxInitIsIdempotent : Prop :=
  ∀ (s t u : State) (c : Nat), exec (.ctxInit c) s = .next t → exec (.ctxInit c) t = .next u → u = t

/-! ## SALT_DECODE, ENCODE6 -/

/-- SALT_DECODE of a present salt of two or more bytes whose first two are in the alphabet: SALTNUM is
decode6(ch0) + 64 decode6(ch1), SALTCH holds the two characters, RESULT 1 and ERR 0, nothing else changes
(40_salt_codec.md R115, R119, R121). -/
def Obligations.SaltDecodeResult : Prop :=
  ∀ (s : State) (v0 v1 : BitVec 6), s.saltPresent = true → 2 ≤ s.regs.saltLen.toNat →
    decode6 (s.byteAt 0x1800) = some v0 → decode6 (s.byteAt 0x1801) = some v1 →
    ∃ (num : BitVec 12) (ch : BitVec 16), num.toNat = v0.toNat + 64 * v1.toNat ∧
      ch.extractLsb' 0 8 = s.byteAt 0x1800 ∧ ch.extractLsb' 8 8 = s.byteAt 0x1801 ∧
      exec .saltDecode s =
        .next { s with regs := { s.regs with ok := true, code := 0#4, saltNum := num, saltCh := ch },
                       hidden := Datapath.zero }

/-- The failures of SALT_DECODE in their order: an absent salt is InvalidArgument before every other check; then a first
byte `$` is UnsupportedFormat whatever the length from 1 on; then a length below 2 or a character outside the alphabet
is InvalidSalt.  On each, only RESULT and ERR change (40_salt_codec.md R116, R117, R118, R121). -/
def Obligations.SaltDecodeFailsInOrder : Prop :=
  ∀ s : State,
    (s.saltPresent = false →
      exec .saltDecode s =
        .next { s with regs := { s.regs with ok := false, code := 1#4 }, hidden := Datapath.zero }) ∧
    (s.saltPresent = true → 1 ≤ s.regs.saltLen.toNat → s.byteAt 0x1800 = 0x24#8 →
      exec .saltDecode s =
        .next { s with regs := { s.regs with ok := false, code := 3#4 }, hidden := Datapath.zero }) ∧
    (s.saltPresent = true → ¬(1 ≤ s.regs.saltLen.toNat ∧ s.byteAt 0x1800 = 0x24#8) →
      (s.regs.saltLen.toNat < 2 ∨ decode6 (s.byteAt 0x1800) = none ∨ decode6 (s.byteAt 0x1801) = none) →
      exec .saltDecode s =
        .next { s with regs := { s.regs with ok := false, code := 2#4 }, hidden := Datapath.zero })

/-- ENCODE6: an argument of 63 or less gives ENC_RES its alphabet character; a wider one is InvalidArgument and ENC_RES
keeps its value; nothing else changes but RESULT and ERR, and its word is 0x11 (40_salt_codec.md R111, R122). -/
def Obligations.Encode6Result : Prop :=
  decode 0x00000011#32 = .ok .encode6 ∧ ∀ s : State,
    (s.regs.encArg.toNat ≤ 63 → exec .encode6 s =
      .next { s with regs := { s.regs with ok := true, code := 0#4,
                                           encRes := encode6 (BitVec.ofNat 6 s.regs.encArg.toNat) },
                     hidden := Datapath.zero }) ∧
    (63 < s.regs.encArg.toNat → exec .encode6 s =
      .next { s with regs := { s.regs with ok := false, code := 1#4 }, hidden := Datapath.zero })

/-- encode6 and decode6 are the alphabet and its inverse: `encode6 v` is byte v of
`./0123456789ABCDEFGHIJKLMNOPQRSTUVWXYZabcdefghijklmnopqrstuvwxyz`, decoding inverts it, and a byte that decodes is
encoded back (40_salt_codec.md R110-R112; that the two are inverse is the spec's inference in R113). -/
def Obligations.AlphabetAndItsInverse : Prop :=
  (∀ v : BitVec 6, encode6 v =
    BitVec.ofNat 8 (("./0123456789ABCDEFGHIJKLMNOPQRSTUVWXYZabcdefghijklmnopqrstuvwxyz".toList.map Char.toNat).getD v.toNat 0)) ∧
  (∀ v : BitVec 6, decode6 (encode6 v) = some v) ∧
  (∀ (b : Byte) (v : BitVec 6), decode6 b = some v → encode6 v = b)

/-- Numeric salt composition: `s = decode6(ch0) + 64 decode6(ch1)`, and every s in 0..4095 is the image of exactly one
pair of alphabet characters (40_salt_codec.md R119). -/
def Obligations.NumericSaltIsABijection : Prop :=
  (∀ v0 v1 : BitVec 6, (saltNumber v0 v1).toNat = v0.toNat + 64 * v1.toNat) ∧
  (∀ n : BitVec 12, ∃ ch0 ch1 : Byte,
    (∃ v0 v1 : BitVec 6, decode6 ch0 = some v0 ∧ decode6 ch1 = some v1 ∧ saltNumber v0 v1 = n) ∧
    ∀ d0 d1 : Byte, (∃ v0 v1 : BitVec 6, decode6 d0 = some v0 ∧ decode6 d1 = some v1 ∧ saltNumber v0 v1 = n) →
      d0 = ch0 ∧ d1 = ch1)

/-! ## KEY_DERIVE -/

/-- KEY_DERIVE of a present passphrase of fewer than 512 bytes: key byte i is passphrase byte i shifted left by one, or 0
beyond its end, key byte 0 in K[63:56]; RESULT 1 and ERR 0, nothing else changes (41_key_deriver.md R142, R147, R148). -/
def Obligations.KeyDeriveResult : Prop :=
  ∀ s : State, s.passPresent = true → s.regs.passLen.toNat < 512 →
    ∃ k : Block,
      (∀ i, i < 8 → k.extractLsb' (56 - 8 * i) 8 =
        (if i < s.regs.passLen.toNat then (s.byteAt (0x1000 + i)) <<< 1 else 0#8)) ∧
      exec .keyDerive s =
        .next { s with regs := { s.regs with ok := true, code := 0#4, keyHi := k.extractLsb' 32 32,
                                             keyLo := k.extractLsb' 0 32 },
                       hidden := Datapath.zero }

/-- The failures of KEY_DERIVE: an absent passphrase is InvalidArgument before the length check; a length of 512 or more
is PassphraseTooLong; only RESULT and ERR change (41_key_deriver.md R145, R146, R148). -/
def Obligations.KeyDeriveFailsInOrder : Prop :=
  ∀ s : State,
    (s.passPresent = false → exec .keyDerive s =
      .next { s with regs := { s.regs with ok := false, code := 1#4 }, hidden := Datapath.zero }) ∧
    (s.passPresent = true → 512 ≤ s.regs.passLen.toNat → exec .keyDerive s =
      .next { s with regs := { s.regs with ok := false, code := 4#4 }, hidden := Datapath.zero })

/-- Bit 7 of the first eight passphrase bytes and every byte beyond them never reach the key: two accepted passphrases
that agree in the low seven bits of bytes 0..7 (absent bytes counting as 0) give the same key registers, and bit 0 of
every key byte is 0 (41_key_deriver.md R144, and the consequences that R143 infers from R142). -/
def Obligations.KeyIgnoresBit7AndTheTail : Prop :=
  ∀ s s' t t' : State, s.passPresent = true → s'.passPresent = true →
    s.regs.passLen.toNat < 512 → s'.regs.passLen.toNat < 512 →
    (∀ i, i < 8 → (s.keySource i).extractLsb' 0 7 = (s'.keySource i).extractLsb' 0 7) →
    exec .keyDerive s = .next t → exec .keyDerive s' = .next t' →
    t.regs.keyHi = t'.regs.keyHi ∧ t.regs.keyLo = t'.regs.keyLo ∧
    ∀ i, i < 4 → t.regs.keyHi.getLsbD (8 * i) = false ∧ t.regs.keyLo.getLsbD (8 * i) = false

/-! ## DIGEST and the Digest Engine (42_digest_engine.md) -/

/-- DIGEST always succeeds: DIG holds Digest of the key registers under SALTNUM, 25 chained salted encryptions of the zero
block with the key's schedule, whatever the hidden registers held before; nothing else changes but RESULT and ERR (R160,
R178). -/
def Obligations.DigestResult : Prop :=
  ∀ s : State,
    exec .digest s =
      .next { s with
        regs := { s.regs with
          ok := true
          code := 0#4
          digHi := (Des.digest (s.regs.keyHi ++ s.regs.keyLo) s.regs.saltNum).extractLsb' 32 32
          digLo := (Des.digest (s.regs.keyHi ++ s.regs.keyLo) s.regs.saltNum).extractLsb' 0 32 }
        hidden := Datapath.zero }

/-- FP is the inverse of IP (R163). -/
def Obligations.FinalPermutationInvertsInitial : Prop :=
  ∀ b : Block, Des.fp (Des.ip b) = b ∧ Des.ip (Des.fp b) = b

/-- The salt swap exchanges exactly the pairs e[47-k], e[23-k] whose salt bit is set, leaves every other bit, and is its
own inverse (R165). -/
def Obligations.SaltSwapExchangesThePairs : Prop :=
  ∀ (e : BitVec 48) (s : BitVec 12),
    (∀ k, k < 12 →
      (Des.saltSwap e s).getLsbD (47 - k) = (if s.getLsbD k then e.getLsbD (23 - k) else e.getLsbD (47 - k)) ∧
      (Des.saltSwap e s).getLsbD (23 - k) = (if s.getLsbD k then e.getLsbD (47 - k) else e.getLsbD (23 - k))) ∧
    (∀ i, i < 12 → (Des.saltSwap e s).getLsbD i = e.getLsbD i ∧
      (Des.saltSwap e s).getLsbD (24 + i) = e.getLsbD (24 + i)) ∧
    Des.saltSwap (Des.saltSwap e s) s = e

/-- The low bit of each key byte does not affect the digest (the spec's inference in R176 from R170). -/
def Obligations.DigestIgnoresParityBits : Prop :=
  ∀ (k k' : Block) (s : BitVec 12),
    (∀ n, n < 64 → n % 8 ≠ 0 → k.getLsbD n = k'.getLsbD n) → Des.digest k s = Des.digest k' s

/-- K = 0 is a weak key: its sixteen round keys are all equal, a salted encryption with them is its own inverse, and the
digest is one encryption of the zero block, for every salt (R178, derived there from R173 and R174). -/
def Obligations.ZeroKeyIsWeak : Prop :=
  (∀ k ∈ Des.keySchedule 0#64, k = 0#48) ∧ (Des.keySchedule 0#64).length = 16 ∧
  (∀ (s : BitVec 12) (b : Block),
    Des.encrypt (Des.keySchedule 0#64) s (Des.encrypt (Des.keySchedule 0#64) s b) = b) ∧
  (∀ s : BitVec 12, Des.digest 0#64 s = Des.encrypt (Des.keySchedule 0#64) s 0#64)

/-- IP and FP may be moved out of the chain: IP once before the first iteration and FP once after the last, with the
halves exchanged after the rounds of each iteration, gives the same digest (the spec's inference in R175 from R163 and
R174). -/
def Obligations.PermutationsMoveOutOfTheChain : Prop :=
  ∀ (k : Block) (s : BitVec 12),
    let lr := (fun (x : BitVec 32 × BitVec 32) =>
      let y := (Des.keySchedule k).foldl (Des.feistel s) x
      (y.2, y.1))^[25] ((Des.ip 0#64).extractLsb' 32 32, (Des.ip 0#64).extractLsb' 0 32)
    Des.digest k s = Des.fp (lr.1 ++ lr.2)

/-! ## OUT_ENCODE (43_output_encoder.md) -/

/-- OUT_ENCODE always succeeds: byte i of OUTW0..OUTW3 (little-endian within each word) is byte i of the output string of
SALTCH and DIG followed by two zero bytes; nothing else changes but RESULT and ERR, and its word is 0x40 (R200, R202,
R204). -/
def Obligations.OutEncodeResult : Prop :=
  decode 0x00000040#32 = .ok .outEncode ∧ ∀ s : State, ∃ w0 w1 w2 w3 : Word,
    exec .outEncode s =
      .next { s with regs := { s.regs with ok := true, code := 0#4, outW0 := w0, outW1 := w1, outW2 := w2, outW3 := w3 },
                     hidden := Datapath.zero } ∧
    ([w0, w1, w2, w3].getD 0 0#32).extractLsb' 0 8 = s.regs.saltCh.extractLsb' 0 8 ∧
    ([w0, w1, w2, w3].getD 0 0#32).extractLsb' 8 8 = s.regs.saltCh.extractLsb' 8 8 ∧
    (∀ i, i < 11 → ([w0, w1, w2, w3].getD ((i + 2) / 4) 0#32).extractLsb' (8 * ((i + 2) % 4)) 8 =
      encode6 (((s.regs.digHi ++ s.regs.digLo) >>> (6 * i)).extractLsb' 0 6)) ∧
    w3.extractLsb' 8 24 = 0#24

/-- The digest can be recovered from its eleven symbols, D = sum of decode6(c_i) shifted left by 6 i, and the last symbol
is one of the first sixteen (the spec's inference in R201 from R200 and R113). -/
def Obligations.SymbolsDetermineTheDigest : Prop :=
  ∀ d : Block, ∃ v : Nat → BitVec 6,
    (∀ i, i < 11 → decode6 (digestSymbol d i) = some (v i)) ∧
    d.toNat = ((List.range 11).map (fun i => (v i).toNat * 2 ^ (6 * i))).sum ∧ (v 10).toNat < 16

/-! ## HASH (44_hash_context.md) -/

/-- HASH.SHARED with acceptable inputs writes the output string to slot 0 (R221, R223, R227, R228, R231).  `firstHashError`
is the priority list of 60_exceptions.md R265 and `byteAfterHash` the whole content of storage. -/
def Obligations.HashSharedWritesTheString : Prop :=
  ∀ (s : State) (v0 v1 : BitVec 6), s.firstHashError = none →
    decode6 (s.saltByte 0) = some v0 → decode6 (s.saltByte 1) = some v1 →
    ∃ t : State, exec .hashShared s = .next t ∧ s.OnlyStatus t true 0#4 ∧ t.allocDraws = s.allocDraws ∧
      ∀ b, t.byteAt b = s.byteAfterHash 0
        (outString (s.saltByte 0) (s.saltByte 1) (Des.digest (packKey s.keySource) (v1 ++ v0))) b

/-- HASH.REENTRANT with acceptable inputs and an admitted slot writes the output string to that slot (R221, R230, R234). -/
def Obligations.HashReentrantWritesTheString : Prop :=
  ∀ (s : State) (c : Nat) (v0 v1 : BitVec 6), 1 ≤ c → c < s.cfg.nCtx → s.firstHashError = none →
    decode6 (s.saltByte 0) = some v0 → decode6 (s.saltByte 1) = some v1 →
    ∃ t : State, exec (.hashReentrant c) s = .next t ∧ s.OnlyStatus t true 0#4 ∧ t.allocDraws = s.allocDraws ∧
      ∀ b, t.byteAt b = s.byteAfterHash c
        (outString (s.saltByte 0) (s.saltByte 1) (Des.digest (packKey s.keySource) (v1 ++ v0))) b

/-- HASH.SIZED with acceptable inputs, an admitted slot and CTX_SIZE of at least 33280 writes the output string to that
slot (R221, R232). -/
def Obligations.HashSizedWritesTheString : Prop :=
  ∀ (s : State) (c : Nat) (v0 v1 : BitVec 6), 1 ≤ c → c < s.cfg.nCtx → 33280 ≤ s.regs.ctxSize.toNat →
    s.firstHashError = none → decode6 (s.saltByte 0) = some v0 → decode6 (s.saltByte 1) = some v1 →
    ∃ t : State, exec (.hashSized c) s = .next t ∧ s.OnlyStatus t true 0#4 ∧ t.allocDraws = s.allocDraws ∧
      ∀ b, t.byteAt b = s.byteAfterHash c
        (outString (s.saltByte 0) (s.saltByte 1) (Des.digest (packKey s.keySource) (v1 ++ v0))) b

/-- HASH.GROWING of an admitted slot takes one allocator draw, whatever its inputs.  On false it is an AllocationError,
before every input error, and no byte of storage changes; on true, with acceptable inputs, it writes the output string to
the slot (R221, R233; 60_exceptions.md R265).  The draw is a free value, and their count is the model's own field (log 4). -/
def Obligations.HashGrowingFollowsTheDraw : Prop :=
  ∀ (s : State) (c : Nat), 1 ≤ c → c < s.cfg.nCtx →
    ∃ t : State, exec (.hashGrowing c) s = .next t ∧ t.allocDraws = s.allocDraws + 1 ∧
      (Config.allocDraw s.allocDraws = false → s.OnlyStatus t false 6#4 ∧ t.mem = s.mem) ∧
      (Config.allocDraw s.allocDraws = true → ∀ v0 v1 : BitVec 6, s.firstHashError = none →
        decode6 (s.saltByte 0) = some v0 → decode6 (s.saltByte 1) = some v1 →
        s.OnlyStatus t true 0#4 ∧
        ∀ b, t.byteAt b = s.byteAfterHash c
          (outString (s.saltByte 0) (s.saltByte 1) (Des.digest (packKey s.keySource) (v1 ++ v0))) b)

/-- A HASH that resolved its slot and whose inputs are not acceptable reports the first cause of 60_exceptions.md R265,
leaves the failure token in OUTPUT[0..2] and the rest of OUTPUT as it was (or zeroed, on a fresh slot), and scrubs
(R224, R225, R226, R228; 60_exceptions.md R262, R265). -/
def Obligations.HashFailureLeavesTheToken : Prop :=
  ∀ (s : State) (m : HashMode) (c slot : Nat) (e : ErrCode),
    s.resolveContext m c = .ok slot → s.firstHashError = some e →
    ∃ t : State, exec (hashOf m c) s = .next t ∧ s.OnlyStatus t false e.value ∧
      ∀ b, t.byteAt b = s.byteAfterHash slot
        [(if s.saltPresent = false ∨ s.regs.saltLen = 0#32 ∨ s.saltByte 0 = 0x00#8 ∨ s.saltByte 0 = 0x2A#8
            then 0x2A#8 else s.saltByte 0), 0x30#8, 0x00#8] b

/-- Slot admission: in REENTRANT, SIZED and GROWING modes an index of 0 or of N_CTX and above is an InvalidArgument in
phase 1, and nothing changes but RESULT and ERR: no slot is written and no draw is taken (R230). -/
def Obligations.HashRefusesTheNullContext : Prop :=
  ∀ (s : State) (m : HashMode) (c : Nat), m ≠ .shared → (c = 0 ∨ s.cfg.nCtx ≤ c) →
    exec (hashOf m c) s =
      .next { s with regs := { s.regs with ok := false, code := 1#4 }, hidden := Datapath.zero }

/-- SIZED mode: on an admitted slot a CTX_SIZE below 33280 is a RangeError that writes no byte of any slot, and from 33280
on the command behaves exactly as REENTRANT (R232). -/
def Obligations.HashSizedChecksTheSize : Prop :=
  ∀ (s : State) (c : Nat), 1 ≤ c → c < s.cfg.nCtx →
    (s.regs.ctxSize.toNat < 33280 → exec (.hashSized c) s =
      .next { s with regs := { s.regs with ok := false, code := 5#4 }, hidden := Datapath.zero }) ∧
    (33280 ≤ s.regs.ctxSize.toNat → exec (.hashSized c) s = exec (.hashReentrant c) s)

/-- Scrub: after every HASH that resolved a slot all 32768 SCRATCH bytes of that slot are 0, on success and on failure,
and a HASH that fails in phase 1 writes no storage at all (R228; 10_state.md R33). -/
def Obligations.EveryHashScrubsItsSlot : Prop :=
  ∀ (s t : State) (m : HashMode) (c : Nat), exec (hashOf m c) s = .next t →
    (∀ slot, s.resolveContext m c = .ok slot → ∀ j, j < 32768 → t.byteAt (scratchAt slot j) = 0#8) ∧
    (∀ e, s.resolveContext m c = .error e → t.mem = s.mem)

/-- Determinism: two HASHes, in any modes, on any slots of any two states, that both succeed and whose inputs agree (the
first two salt bytes, the length, and the first eight passphrase bytes the length covers) write the same 14 bytes (the
spec's inference in R237 from R221 and R233). -/
def Obligations.HashIsDeterministic : Prop :=
  ∀ (s s' t t' : State) (m m' : HashMode) (c c' : Nat),
    s.regs.args = 3#2 → s'.regs.args = 3#2 →
    2 ≤ s.regs.saltLen.toNat → 2 ≤ s'.regs.saltLen.toNat →
    s.saltByte 0 = s'.saltByte 0 → s.saltByte 1 = s'.saltByte 1 →
    s.regs.passLen = s'.regs.passLen → s.regs.passLen.toNat < 512 →
    (∀ i, i < min s.regs.passLen.toNat 8 → s.passByte i = s'.passByte i) →
    exec (hashOf m c) s = .next t → exec (hashOf m' c') s' = .next t' →
    t.regs.ok = true → t'.regs.ok = true →
    ∀ j, j < 14 → t.byteAt (slotAt (slotOf m c) j) = t'.byteAt (slotAt (slotOf m' c') j)

/-- Isolation: a HASH or CTX_INIT that names slot c writes no byte outside that slot, and besides the slot only RESULT and
ERR (the spec's inference in R238 from R220 and R235).  (The count of allocator draws is the model's own, log 4.) -/
def Obligations.DistinctSlotsAreIsolated : Prop :=
  ∀ (s t : State) (i : Instr) (slot : Nat),
    (i = .ctxInit slot ∨ ∃ m c, i = hashOf m c ∧ slotOf m c = slot) → exec i s = .next t →
    (∀ b, (b < slotAt slot 0 ∨ slotAt slot 33280 ≤ b) → t.byteAt b = s.byteAt b) ∧
    s.OnlyStatus t t.regs.ok t.regs.code

/-- HASH reads and writes none of SALTNUM, SALTCH, KEY, DIG, ENC_ARG, ENC_RES and OUTW: from two states that differ only in
those registers it leaves the same storage and status, each state's own values of those registers, and a zero hidden
state (R229). -/
def Obligations.HashIgnoresComponentRegisters : Prop :=
  ∀ (s t : State) (m : HashMode) (c : Nat) (encArg : Word) (encRes : Byte) (saltNum : BitVec 12) (saltCh : BitVec 16)
    (keyLo keyHi digLo digHi outW0 outW1 outW2 outW3 : Word),
    exec (hashOf m c) s = .next t →
    t.hidden = Datapath.zero ∧ t.regs = { s.regs with ok := t.regs.ok, code := t.regs.code } ∧
    exec (hashOf m c) { s with
        regs := { s.regs with
          encArg := encArg, encRes := encRes, saltNum := saltNum, saltCh := saltCh, keyLo := keyLo, keyHi := keyHi,
          digLo := digLo, digHi := digHi, outW0 := outW0, outW1 := outW1, outW2 := outW2, outW3 := outW3 } } =
      .next { t with
        regs := { t.regs with
          encArg := encArg, encRes := encRes, saltNum := saltNum, saltCh := saltCh, keyLo := keyLo, keyHi := keyHi,
          digLo := digLo, digHi := digHi, outW0 := outW0, outW1 := outW1, outW2 := outW2, outW3 := outW3 } }

/-- The four component commands in a row compute exactly the string that HASH writes: from a state with acceptable inputs,
SALT_DECODE, KEY_DERIVE, DIGEST, OUT_ENCODE and HASH.REENTRANT all succeed (each leaves OK set), and byte j of OUTW0..OUTW3
is then byte j of the OUTPUT field that HASH.REENTRANT writes from the first state, for all 14 bytes (R221;
95_test_vectors.md P2). -/
def Obligations.PipelineEqualsHash : Prop :=
  ∀ (s : State) (c : Nat) (v0 v1 : BitVec 6), 1 ≤ c → c < s.cfg.nCtx → s.firstHashError = none →
    decode6 (s.saltByte 0) = some v0 → decode6 (s.saltByte 1) = some v1 →
    ∃ s1 s2 s3 s4 t : State, exec .saltDecode s = .next s1 ∧ exec .keyDerive s1 = .next s2 ∧
      exec .digest s2 = .next s3 ∧ exec .outEncode s3 = .next s4 ∧ exec (.hashReentrant c) s = .next t ∧
      s1.regs.ok = true ∧ s2.regs.ok = true ∧ s3.regs.ok = true ∧ s4.regs.ok = true ∧ t.regs.ok = true ∧
      ∀ j, j < 14 →
        ([s4.regs.outW0, s4.regs.outW1, s4.regs.outW2, s4.regs.outW3].getD (j / 4) 0#32).extractLsb' (8 * (j % 4)) 8 =
          t.byteAt (slotAt c j)

/-! ## Rules about all commands -/

/-- SALT_DECODE, ENCODE6, KEY_DERIVE, DIGEST and OUT_ENCODE touch no storage, and of the registers only RESULT, ERR and their
own results (40_salt_codec.md R123, 41_key_deriver.md R149, 42_digest_engine.md R180, 43_output_encoder.md R205). -/
def Obligations.ComponentCommandFrames : Prop :=
  ∀ (s t : State) (i : Instr), i ∈ [.saltDecode, .encode6, .keyDerive, .digest, .outEncode] → exec i s = .next t →
    t.mem = s.mem ∧ t.cfg = s.cfg ∧ t.epoch = s.epoch ∧ t.allocDraws = s.allocDraws ∧ t.bus = s.bus ∧
    t.reply = s.reply ∧ t.hidden = Datapath.zero ∧
    t.regs = { s.regs with
      ok := t.regs.ok, code := t.regs.code,
      saltNum := if i = .saltDecode then t.regs.saltNum else s.regs.saltNum,
      saltCh := if i = .saltDecode then t.regs.saltCh else s.regs.saltCh,
      encRes := if i = .encode6 then t.regs.encRes else s.regs.encRes,
      keyHi := if i = .keyDerive then t.regs.keyHi else s.regs.keyHi,
      keyLo := if i = .keyDerive then t.regs.keyLo else s.regs.keyLo,
      digHi := if i = .digest then t.regs.digHi else s.regs.digHi,
      digLo := if i = .digest then t.regs.digLo else s.regs.digLo,
      outW0 := if i = .outEncode then t.regs.outW0 else s.regs.outW0,
      outW1 := if i = .outEncode then t.regs.outW1 else s.regs.outW1,
      outW2 := if i = .outEncode then t.regs.outW2 else s.regs.outW2,
      outW3 := if i = .outEncode then t.regs.outW3 else s.regs.outW3 }

/-- Every CMD word but NOP's ends in one of the two epilogues: RESULT 1 with ERR 0, or RESULT 0 with ERR one of 1 to 7, and
the hidden state zero (10_state.md R22, R23, R38; 60_exceptions.md R260, R262, R263). -/
def Obligations.EveryCommandReportsItsStatus : Prop :=
  ∀ (s t : State) (w : Word), w ≠ 0#32 → runCommand w s = .next t →
    t.hidden = Datapath.zero ∧
    ((t.readReg .result = 1#32 ∧ t.readReg .err = 0#32) ∨
     (t.readReg .result = 0#32 ∧ 1 ≤ (t.readReg .err).toNat ∧ (t.readReg .err).toNat ≤ 7))

/-- No command reads RESULT or ERR: a command other than NOP does the same from two states that differ only there
(10_state.md R40). -/
def Obligations.NoCommandReadsTheStatus : Prop :=
  ∀ (s : State) (i : Instr) (ok : Bool) (code : BitVec 4), i ≠ .nop →
    exec i { s with regs := { s.regs with ok := ok, code := code } } = exec i s

/-- The engine never writes PASSBUF or SALTBUF, and no command writes a register that the host sets up as an input and no
command computes: ARGS, PASS_LEN, SALT_LEN, CTX_SIZE and ENC_ARG (10_state.md R26, R27, R29). -/
def Obligations.CommandsNeverWriteTheirInputs : Prop :=
  ∀ (s t : State) (i : Instr), exec i s = .next t →
    (∀ j, j < 512 → t.byteAt (passAt j) = s.byteAt (passAt j)) ∧
    (∀ j, j < 16 → t.byteAt (saltAt j) = s.byteAt (saltAt j)) ∧
    t.regs.args = s.regs.args ∧ t.regs.passLen = s.regs.passLen ∧ t.regs.saltLen = s.regs.saltLen ∧
    t.regs.ctxSize = s.regs.ctxSize ∧ t.regs.encArg = s.regs.encArg

/-! ## Host accesses (20_memory.md, 10_state.md R21, R35, R36) -/

/-- Which accesses are admitted: 32-bit ones at multiples of 4 in the register page, and naturally aligned ones of 1, 2 or 4
bytes in PASSBUF, SALTBUF and the windows of the slots that exist; every other access is a bus error (R61-R66, R69, R70).
The offset the engine sees is the address less BASE.  That an address outside the window is a bus error too is DEDUCED
(log 8). -/
def Obligations.AdmittedAccesses : Prop :=
  ∀ (cfg : Config) (addr n o : Nat), cfg.Legal →
    (admitAccess cfg addr n = .ok o ↔ addr = cfg.base + o ∧
      ((o < 0x100 ∧ n = 4 ∧ o % 4 = 0) ∨
       ((n = 1 ∨ n = 2 ∨ n = 4) ∧ o % n = 0 ∧
        ((0x1000 ≤ o ∧ o < 0x1200) ∨ (0x1800 ≤ o ∧ o < 0x1810) ∨
         ∃ c j, c < cfg.nCtx ∧ j < 0x8200 ∧ o = 0x10000 * (c + 1) + j))))

/-- A read changes nothing: its only traces are the access taken off the bus and the answer.  A 32-bit read at a register's
offset answers that register: its implemented bits with the others 0, and CMD 0.  A read of n bytes of storage answers
those bytes, the first in the low eight bits, with 0 above (10_state.md R21, R24, R35; 20_memory.md R67, R71, R72; the bus
and the answer are the model's fields, logs 5 and 6).  A row of the table is a register, its offset and the word it reads. -/
def Obligations.ReadsHaveNoSideEffect : Prop :=
  (∀ (s : State) (host addr n o : Nat) (rest : List BusEvent), s.bus = .read host addr n :: rest →
    admitAccess s.cfg addr n = .ok o →
    step s = .next { s with bus := rest, reply := some (.readData host (s.hostRead o n)) }) ∧
  (∀ (s : State) (host : Nat) (rest : List BusEvent) (r : RegName) (o : Nat) (word : Word),
    (r, o, word) ∈ [(RegName.cmd, 0x000, 0#32), (.result, 0x004, if s.regs.ok then 1#32 else 0#32),
      (.err, 0x008, s.regs.code.setWidth 32), (.args, 0x00C, s.regs.args.setWidth 32), (.passLen, 0x010, s.regs.passLen),
      (.saltLen, 0x014, s.regs.saltLen), (.ctxSize, 0x018, s.regs.ctxSize), (.encArg, 0x01C, s.regs.encArg),
      (.encRes, 0x020, s.regs.encRes.setWidth 32), (.saltNum, 0x024, s.regs.saltNum.setWidth 32),
      (.saltCh, 0x028, s.regs.saltCh.setWidth 32), (.keyLo, 0x02C, s.regs.keyLo), (.keyHi, 0x030, s.regs.keyHi),
      (.digLo, 0x034, s.regs.digLo), (.digHi, 0x038, s.regs.digHi), (.outW0, 0x03C, s.regs.outW0),
      (.outW1, 0x040, s.regs.outW1), (.outW2, 0x044, s.regs.outW2), (.outW3, 0x048, s.regs.outW3),
      (.config, 0x04C, BitVec.ofNat 32 (s.cfg.nCtx % 512))] →
    s.bus = .read host (s.cfg.base + o) 4 :: rest →
    s.readReg r = word ∧ step s = .next { s with bus := rest, reply := some (.readData host word) }) ∧
  (∀ (s : State) (host addr n o : Nat) (rest : List BusEvent), s.bus = .read host addr n :: rest →
    admitAccess s.cfg addr n = .ok o → 0x100 ≤ o →
    ∃ a : Word, step s = .next { s with bus := rest, reply := some (.readData host a) } ∧
      ∀ k, k < 4 → a.extractLsb' (8 * k) 8 = if k < n then s.byteAt (o + k) else 0#8)

/-- A storage write of n bytes stores them low byte first and leaves every other byte, every register and the hidden state;
a read of one of those bytes that follows answers that byte of the value (R67, and the spec's inference in R73; the order
of accesses and the answer are the model's fields, logs 5 and 6). -/
def Obligations.StorageWriteThenRead : Prop :=
  ∀ (s : State) (host host' addr n o k : Nat) (v : Word) (rest : List BusEvent),
    s.cfg.Legal → admitAccess s.cfg addr n = .ok o → 0x100 ≤ o → k < n →
    s.bus = .write host addr n v :: .read host' (addr + k) 1 :: rest →
    ∃ t u : State, step s = .next t ∧ step t = .next u ∧
      u.reply = some (.readData host' ((v.extractLsb' (8 * k) 8).setWidth 32)) ∧
      (∀ b, (b < o ∨ o + n ≤ b) → t.byteAt b = s.byteAt b) ∧
      t.regs = s.regs ∧ t.hidden = s.hidden ∧ t.cfg = s.cfg ∧ t.epoch = s.epoch ∧ t.allocDraws = s.allocDraws

/-- A storage write of n bytes, n being 1, 2 or 4, reads back: a read of the same width at the same address answers the low
n bytes of the value (R67, R69, and the spec's inference in R73; the order of accesses and the answer are the model's
fields, logs 5 and 6). -/
def Obligations.StorageWordReadsBack : Prop :=
  ∀ (s : State) (host host' addr n o : Nat) (v : Word) (rest : List BusEvent),
    admitAccess s.cfg addr n = .ok o → 0x100 ≤ o →
    s.bus = .write host addr n v :: .read host' addr n :: rest →
    ∃ t u : State, step s = .next t ∧ step t = .next u ∧
      u.reply = some (.readData host' (BitVec.ofNat 32 (v.toNat % 2 ^ (8 * n))))

/-- The register page: a write to an RW register keeps the value's implemented bits and changes no other register; a write
to an R register changes no register; reserved bits read 0 (10_state.md R21, R35).  The third entry of a row is the mask of
the bits the write reaches.  That the access is taken off the bus is the model's choice (log 5). -/
def Obligations.RegisterWritesKeepImplementedBits : Prop :=
  ∀ (s : State) (host : Nat) (v : Word) (rest : List BusEvent) (r : RegName) (o : Nat) (mask : Word),
    (r, o, mask) ∈ [(RegName.result, 0x004, 0#32), (.err, 0x008, 0#32), (.args, 0x00C, 3#32),
      (.passLen, 0x010, 0xFFFFFFFF#32), (.saltLen, 0x014, 0xFFFFFFFF#32), (.ctxSize, 0x018, 0xFFFFFFFF#32),
      (.encArg, 0x01C, 0xFFFFFFFF#32), (.encRes, 0x020, 0#32), (.saltNum, 0x024, 0xFFF#32), (.saltCh, 0x028, 0xFFFF#32),
      (.keyLo, 0x02C, 0xFFFFFFFF#32), (.keyHi, 0x030, 0xFFFFFFFF#32), (.digLo, 0x034, 0xFFFFFFFF#32),
      (.digHi, 0x038, 0xFFFFFFFF#32), (.outW0, 0x03C, 0#32), (.outW1, 0x040, 0#32), (.outW2, 0x044, 0#32),
      (.outW3, 0x048, 0#32), (.config, 0x04C, 0#32)] →
    s.bus = .write host (s.cfg.base + o) 4 v :: rest →
    ∃ t : State, step s = .next t ∧ t.mem = s.mem ∧ t.hidden = s.hidden ∧ t.cfg = s.cfg ∧ t.epoch = s.epoch ∧
      t.allocDraws = s.allocDraws ∧ t.bus = rest ∧
      t.readReg r = (if mask = 0#32 then s.readReg r else v &&& mask) ∧
      ∀ r', r' ≠ r → t.readReg r' = s.readReg r'

/-- Reserved offsets 0x050-0x0FF read 0 and ignore writes (10_state.md R36; the access taken off the bus and the answer are
the model's choices, logs 5 and 6). -/
def Obligations.ReservedOffsetsAreInert : Prop :=
  ∀ (s : State) (host o : Nat) (v : Word) (rest : List BusEvent), 0x50 ≤ o → o < 0x100 → o % 4 = 0 →
    (s.bus = .read host (s.cfg.base + o) 4 :: rest →
      step s = .next { s with bus := rest, reply := some (.readData host 0#32) }) ∧
    (s.bus = .write host (s.cfg.base + o) 4 v :: rest →
      step s = .next { s with bus := rest, reply := some (.writeDone host) })

/-- The only access with a side effect is a write to CMD: no other access changes the status, a result of a command that the
host cannot write, or the hidden state (20_memory.md R72; 10_state.md R35).  (The bus and the count of allocator draws are the model's own, logs 5 and 4.) -/
def Obligations.OnlyCmdWritesExecute : Prop :=
  ∀ (s t : State) (ev : BusEvent) (rest : List BusEvent), s.bus = ev :: rest → ev ≠ .reset →
    (∀ host n v, ev ≠ .write host s.cfg.base n v) → step s = .next t →
    t.regs.ok = s.regs.ok ∧ t.regs.code = s.regs.code ∧ t.regs.encRes = s.regs.encRes ∧ t.regs.outW0 = s.regs.outW0 ∧
    t.regs.outW1 = s.regs.outW1 ∧ t.regs.outW2 = s.regs.outW2 ∧ t.regs.outW3 = s.regs.outW3 ∧ t.hidden = s.hidden ∧
    t.allocDraws = s.allocDraws

/-- Every host is served alike: which host makes an access changes nothing but whom the answer names (60_exceptions.md R271,
R274; that an access names its host and that an answer names it again are the model's choices, logs 5 and 6). -/
def Obligations.EngineDoesNotSeeTheHost : Prop :=
  ∀ (s t : State) (h h' addr n : Nat) (v : Word) (rest : List BusEvent),
    (s.bus = .read h addr n :: rest → step s = .next t →
      ∃ a, t.reply = some (.readData h a) ∧
        step { s with bus := .read h' addr n :: rest } = .next { t with reply := some (.readData h' a) }) ∧
    (s.bus = .write h addr n v :: rest → step s = .next t →
      t.reply = some (.writeDone h) ∧
        step { s with bus := .write h' addr n v :: rest } = .next { t with reply := some (.writeDone h') })

/-! ## Reset (70_reset_and_hazards.md) -/

/-- A reset event leaves every register 0 but CONFIG, which reads N_CTX, the hidden state zero, every slot's INIT 0, and every
other byte of storage its draw; the parameters stay (R291; 10_state.md R20, R43, R44, R45).  The draws are free values
(log 2), and that the accesses to come stay is the model's choice (log 5). -/
def Obligations.ResetEventState : Prop :=
  ∀ (s : State) (rest : List BusEvent), s.cfg.Legal → s.bus = .reset :: rest →
    ∃ t : State, step s = .next t ∧ (∀ r, r ≠ .config → t.readReg r = 0#32) ∧
      (t.readReg .config).toNat = s.cfg.nCtx ∧ t.hidden = Datapath.zero ∧ (∀ c, t.initWord c = 0#32) ∧
      (∀ b, (∀ c k, k < 4 → b ≠ initAt c + k) → t.byteAt b = Config.resetDraw t.epoch b) ∧
      t.cfg = s.cfg ∧ t.bus = rest

/-! ## Invariants -/

/-- Every step keeps the invariant: legal parameters, canonical storage inside the map, a zero hidden state between
commands, and a legal status (10_state.md R22, R23, R38; 20_memory.md R61; log 3). -/
def Obligations.EveryStepKeepsTheInvariant : Prop :=
  ∀ s t : State, s.Inv → step s = .next t → t.Inv

/-- The state after any reset meets the invariant, State.reset among them (10_state.md R43, R45; the canonical form
of storage is log 3, and State.reset's BASE 0 is log 1). -/
def Obligations.ResetMeetsTheInvariant : Prop :=
  State.reset.Inv ∧
  ∀ (cfg : Config) (epoch n : Nat) (bus : List BusEvent), cfg.Legal → (State.resetWith cfg epoch n bus).Inv

/-- A run whose accesses are all admitted never stops: each step answers a next state, and its accesses to come are all
admitted again (20_memory.md R66; 60_exceptions.md R267; the bus and the stop on a bus error are the
model's, logs 5 and 7). -/
def Obligations.CleanRunsNeverStop : Prop :=
  ∀ s : State, s.BusClean → ∃ t : State, step s = .next t ∧ t.BusClean ∧ (s.bus ≠ [] → t.bus = s.bus.tail)

/-- The parameters never change, and CONFIG reads N_CTX in every state with legal parameters (10_state.md R20, R30; that they
stand in the state is log 1). -/
def Obligations.ParametersAreConstant : Prop :=
  (∀ s t : State, step s = .next t → t.cfg = s.cfg) ∧
  (∀ s : State, s.cfg.Legal → (s.readReg .config).toNat = s.cfg.nCtx)

/-! ## Host sequences (30_encoding.md R102) -/

/-- The pseudo-instruction `setpass` stores the bytes in PASSBUF and their count in PASS_LEN, one access a line, and leaves
SALTBUF, the slots and every other register (R102; the accesses are the model's bus, log 5). -/
def Obligations.SetpassStoresThePassphrase : Prop :=
  ∀ (s : State) (host : Nat) (bytes : List Byte), bytes.length ≤ 512 →
    s.bus = setpass s.cfg host bytes →
    ∃ t : State, Host.Core.run core (bytes.length + 1) s = .next t ∧ t.bus = [] ∧
      (∀ i, i < bytes.length → t.passByte i = bytes.getD i 0#8) ∧
      (∀ b, (b < 0x1000 ∨ 0x1000 + bytes.length ≤ b) → t.byteAt b = s.byteAt b) ∧
      t.regs = { s.regs with passLen := BitVec.ofNat 32 bytes.length }
end

