-- ==== Sys2Proof/Laws/Datapath.lean ====
section
/-! SUPPORT. The hidden datapath computes the digest function: its working digest after a run is `Des.digest`
(10_state.md R38: a command is a function of the architectural state alone). -/

namespace Sys2Proof.Machine

/-! ## The key schedule -/

theorem Datapath.scheduleFrom_salt (ns : List Nat) (i : Nat) (d : Datapath) :
    (Datapath.scheduleFrom ns i d).salt = d.salt ∧ (Datapath.scheduleFrom ns i d).digest = d.digest := by
  induction ns generalizing i d with
  | nil => exact ⟨rfl, rfl⟩
  | cons n rest ih => exact ih (i + 1) (Datapath.scheduleStep i n d)

theorem Datapath.scheduleFrom_ks (ns : List Nat) (i : Nat) (d : Datapath) (h : i + ns.length ≤ 16) :
    (Datapath.scheduleFrom ns i d).ks.toList =
      d.ks.toList.take i ++ Des.roundKeys ns d.c d.dk ++ d.ks.toList.drop (i + ns.length) := by
  induction ns generalizing i d with
  | nil => simp [Datapath.scheduleFrom, Des.roundKeys]
  | cons n rest ih =>
    simp only [List.length_cons] at h
    rw [Datapath.scheduleFrom, ih (i + 1) _ (by omega)]
    have hl : d.ks.toList.length = 16 := by simp
    have hks : (Datapath.scheduleStep i n d).ks.toList =
        d.ks.toList.set i (Des.pc2 (d.c.rotateLeft n ++ d.dk.rotateLeft n)) := by
      simp [Datapath.scheduleStep, Vector.toList_setIfInBounds]
    rw [hks, List.take_add_one, List.take_set_of_le (Nat.le_refl i), List.getElem?_set_self (by omega),
      List.drop_set_of_lt (by omega)]
    simp only [Des.roundKeys, Datapath.scheduleStep, List.length_cons, Option.toList_some]
    rw [show i + 1 + rest.length = i + (rest.length + 1) by omega]
    simp [List.append_assoc]

theorem Des.roundKeys_length (ns : List Nat) (c d : BitVec 28) : (Des.roundKeys ns c d).length = ns.length := by
  induction ns generalizing c d with
  | nil => rfl
  | cons n rest ih => simp [Des.roundKeys, ih]

/-- After the key schedule, KS holds the sixteen round keys of R173. -/
theorem Datapath.schedule_ks (k : Block) (s : BitVec 12) :
    (Datapath.scheduleFrom Des.shifts 0 (Datapath.load k s)).ks.toList = Des.keySchedule k := by
  rw [Datapath.scheduleFrom_ks Des.shifts 0 _ (by decide)]
  have : (Datapath.load k s).ks.toList.drop (0 + Des.shifts.length) = [] := by
    rw [List.drop_eq_nil_iff]; simp [Des.shifts]
  rw [this]
  simp [Des.keySchedule, Datapath.load]

/-! ## Rounds, encryptions and iterations -/

theorem Datapath.rounds_spec (n : Nat) (d : Datapath) (h : d.rnd + n ≤ 16) :
    (Datapath.rounds n d).ks = d.ks ∧ (Datapath.rounds n d).salt = d.salt ∧
    ((Datapath.rounds n d).l, (Datapath.rounds n d).r) =
      ((d.ks.toList.drop d.rnd).take n).foldl (Des.feistel d.salt) (d.l, d.r) := by
  induction n generalizing d with
  | zero => simp [Datapath.rounds]
  | succ n ih =>
    have hlen : d.rnd < d.ks.toList.length := by simp; omega
    obtain ⟨h1, h2, h3⟩ := ih (Datapath.round d) (by simp only [Datapath.round]; omega)
    refine ⟨h1, h2, ?_⟩
    rw [Datapath.rounds, h3, List.drop_eq_getElem_cons hlen, List.take_succ_cons, List.foldl_cons]
    simp only [Datapath.round, Des.feistel, List.getD_eq_getElem _ _ hlen]

theorem Datapath.closeBlock_ks (d : Datapath) : (Datapath.closeBlock d).ks = d.ks := rfl
theorem Datapath.closeBlock_salt (d : Datapath) : (Datapath.closeBlock d).salt = d.salt := rfl
theorem Datapath.closeBlock_digest (d : Datapath) : (Datapath.closeBlock d).digest = Des.fp (d.r ++ d.l) := rfl
theorem Datapath.openBlock_ks (d : Datapath) : (Datapath.openBlock d).ks = d.ks := rfl
theorem Datapath.openBlock_salt (d : Datapath) : (Datapath.openBlock d).salt = d.salt := rfl
theorem Datapath.openBlock_rnd (d : Datapath) : (Datapath.openBlock d).rnd = 0 := rfl
theorem Datapath.openBlock_l (d : Datapath) :
    (Datapath.openBlock d).l = (Des.ip d.digest).extractLsb' 32 32 := rfl
theorem Datapath.openBlock_r (d : Datapath) :
    (Datapath.openBlock d).r = (Des.ip d.digest).extractLsb' 0 32 := rfl

/-- One run of the datapath's encryption is R174's `DESs` on its own round keys. -/
theorem Datapath.encrypt_spec (d : Datapath) :
    (Datapath.encrypt d).ks = d.ks ∧ (Datapath.encrypt d).salt = d.salt ∧
    (Datapath.encrypt d).digest = Des.encrypt d.ks.toList d.salt d.digest := by
  have hrnd : Config.desRounds = 16 := rfl
  obtain ⟨h1, h2, h3⟩ := Datapath.rounds_spec Config.desRounds (Datapath.openBlock d)
    (by rw [Datapath.openBlock_rnd, hrnd])
  have htake : (d.ks.toList.drop 0).take Config.desRounds = d.ks.toList := by
    rw [List.drop_zero]
    exact List.take_of_length_le (by simp)
  rw [Datapath.openBlock_ks, Datapath.openBlock_rnd, htake, Datapath.openBlock_salt, Datapath.openBlock_l,
    Datapath.openBlock_r] at h3
  rw [Datapath.openBlock_ks] at h1
  rw [Datapath.openBlock_salt] at h2
  have hl := congrArg Prod.fst h3
  have hr := congrArg Prod.snd h3
  dsimp only at hl hr
  rw [Datapath.encrypt, Datapath.closeBlock_ks, Datapath.closeBlock_salt, Datapath.closeBlock_digest, h1, h2, hl, hr,
    Des.encrypt]
  exact ⟨rfl, rfl, rfl⟩

theorem Datapath.iterate_spec (n : Nat) (d : Datapath) :
    (Datapath.iterate n d).digest = Des.iterate d.ks.toList d.salt n d.digest := by
  induction n generalizing d with
  | zero => rfl
  | succ n ih =>
    obtain ⟨h1, h2, h3⟩ := Datapath.encrypt_spec d
    rw [Datapath.iterate, ih, h1, h2, h3, Des.iterate]

/-- The working digest after a run is `Digest(K, s)` (42_digest_engine.md R160). -/
@[simp] theorem Datapath.run_digest (k : Block) (s : BitVec 12) : (Datapath.run k s).digest = Des.digest k s := by
  have hs := Datapath.scheduleFrom_salt Des.shifts 0 (Datapath.load k s)
  rw [Datapath.run, Datapath.iterate_spec, Datapath.schedule_ks, hs.1, hs.2]
  rfl

end Sys2Proof.Machine
end

