-- ==== Sys2Proof/Laws/Des.lean ====
section
/-! SUPPORT. The bits of a permutation and of the salt swap, so that no proof unfolds their folds. -/

namespace Sys2Proof.Machine

theorem Des.permNat_append {w : Nat} (table : List Nat) (n : Nat) (v : BitVec w) :
    Des.permNat (table ++ [n]) v = 2 * Des.permNat table v + (Des.desbit v n).toNat := by
  simp [Des.permNat]

/-- Bit i of a permutation's number, counted from the table's last entry. -/
theorem Des.testBit_permNat {w : Nat} (table : List Nat) (v : BitVec w) (i : Nat) :
    (Des.permNat table v).testBit i = (decide (i < table.length) && Des.desbit v (table.reverse.getD i 0)) := by
  induction table using List.reverseRecOn generalizing i with
  | nil => simp [Des.permNat]
  | append_singleton xs n ih =>
    rw [Des.permNat_append]
    cases i with
    | zero =>
      cases h : Des.desbit v n <;> simp [h, Nat.testBit_zero, Nat.add_mod]
    | succ i =>
      rw [Nat.testBit_succ, show (2 * Des.permNat xs v + (Des.desbit v n).toNat) / 2 = Des.permNat xs v by
        cases Des.desbit v n <;> simp; omega, ih]
      simp

/-- Bit i of `Perm(T, v, W)`: the DES bit of `v` that the table names at i from its end (00_scope.md R11). -/
theorem Des.getLsbD_perm {w : Nat} (table : List Nat) (m : Nat) (v : BitVec w) (i : Nat) (hm : table.length = m) :
    (Des.perm table m v).getLsbD i = (decide (i < m) && Des.desbit v (table.reverse.getD i 0)) := by
  subst hm
  simp only [Des.perm, BitVec.getLsbD_ofNat, Des.testBit_permNat]
  simp

/-- The bits of a swap of two different places. -/
theorem Des.getLsbD_swapBits (e : BitVec 48) (i j k : Nat) (hi : i < 48) (hj : j < 48) (hij : i ≠ j) :
    (Des.swapBits e i j).getLsbD k =
      if k = i then e.getLsbD j else if k = j then e.getLsbD i else e.getLsbD k := by
  unfold Des.swapBits
  split
  · rename_i h
    split
    · subst k; exact h
    · split
      · subst k; exact h.symm
      · rfl
  · rename_i h
    simp only [BitVec.getLsbD_xor, BitVec.getLsbD_twoPow]
    by_cases h1 : k = i
    · subst h1
      cases ha : e.getLsbD k <;> cases hb : e.getLsbD j <;> simp_all [Ne.symm hij]
    · by_cases h2 : k = j
      · subst h2
        cases ha : e.getLsbD k <;> cases hb : e.getLsbD i <;> simp_all
      · simp [h1, h2, Ne.symm h1, Ne.symm h2]

end Sys2Proof.Machine
end

