-- ==== Sys2Proof/Laws/State.lean ====
section
/-! SUPPORT. One lemma for each field under each update of the state and of the register page, so that no proof unfolds a
record update.  Every one is true by rfl. Those of State are proved by cases, so that simp builds a proof from them and the
kernel never compares two memories by running them. -/

namespace Sys2Proof.Machine

/-! The widths of the model's types are the fixed parameters of 00_scope.md R8. -/

theorem word_registerWidth : Word = BitVec Config.registerWidth := rfl
theorem block_digestBits : Block = BitVec Config.digestBits := rfl
theorem saltNumber_saltBits (v0 v1 : BitVec 6) : (saltNumber v0 v1 : BitVec Config.saltBits) = v1 ++ v0 := rfl

/-! State.setRegs -/

@[simp] theorem State.setRegs_cfg (s : State) (x : Regs) : (s.setRegs x).cfg = s.cfg := by cases s; rfl
@[simp] theorem State.setRegs_regs (s : State) (x : Regs) : (s.setRegs x).regs = x := by cases s; rfl
@[simp] theorem State.setRegs_mem (s : State) (x : Regs) : (s.setRegs x).mem = s.mem := by cases s; rfl
@[simp] theorem State.setRegs_hidden (s : State) (x : Regs) : (s.setRegs x).hidden = s.hidden := by cases s; rfl
@[simp] theorem State.setRegs_epoch (s : State) (x : Regs) : (s.setRegs x).epoch = s.epoch := by cases s; rfl
@[simp] theorem State.setRegs_allocDraws (s : State) (x : Regs) : (s.setRegs x).allocDraws = s.allocDraws := by cases s; rfl
@[simp] theorem State.setRegs_bus (s : State) (x : Regs) : (s.setRegs x).bus = s.bus := by cases s; rfl
@[simp] theorem State.setRegs_reply (s : State) (x : Regs) : (s.setRegs x).reply = s.reply := by cases s; rfl

/-! State.setMem -/

@[simp] theorem State.setMem_cfg (s : State) (x : Memory) : (s.setMem x).cfg = s.cfg := by cases s; rfl
@[simp] theorem State.setMem_regs (s : State) (x : Memory) : (s.setMem x).regs = s.regs := by cases s; rfl
@[simp] theorem State.setMem_mem (s : State) (x : Memory) : (s.setMem x).mem = x := by cases s; rfl
@[simp] theorem State.setMem_hidden (s : State) (x : Memory) : (s.setMem x).hidden = s.hidden := by cases s; rfl
@[simp] theorem State.setMem_epoch (s : State) (x : Memory) : (s.setMem x).epoch = s.epoch := by cases s; rfl
@[simp] theorem State.setMem_allocDraws (s : State) (x : Memory) : (s.setMem x).allocDraws = s.allocDraws := by cases s; rfl
@[simp] theorem State.setMem_bus (s : State) (x : Memory) : (s.setMem x).bus = s.bus := by cases s; rfl
@[simp] theorem State.setMem_reply (s : State) (x : Memory) : (s.setMem x).reply = s.reply := by cases s; rfl

/-! State.setHidden -/

@[simp] theorem State.setHidden_cfg (s : State) (x : Datapath) : (s.setHidden x).cfg = s.cfg := by cases s; rfl
@[simp] theorem State.setHidden_regs (s : State) (x : Datapath) : (s.setHidden x).regs = s.regs := by cases s; rfl
@[simp] theorem State.setHidden_mem (s : State) (x : Datapath) : (s.setHidden x).mem = s.mem := by cases s; rfl
@[simp] theorem State.setHidden_hidden (s : State) (x : Datapath) : (s.setHidden x).hidden = x := by cases s; rfl
@[simp] theorem State.setHidden_epoch (s : State) (x : Datapath) : (s.setHidden x).epoch = s.epoch := by cases s; rfl
@[simp] theorem State.setHidden_allocDraws (s : State) (x : Datapath) : (s.setHidden x).allocDraws = s.allocDraws := by cases s; rfl
@[simp] theorem State.setHidden_bus (s : State) (x : Datapath) : (s.setHidden x).bus = s.bus := by cases s; rfl
@[simp] theorem State.setHidden_reply (s : State) (x : Datapath) : (s.setHidden x).reply = s.reply := by cases s; rfl

/-! State.countDraw -/

@[simp] theorem State.countDraw_cfg (s : State) : s.countDraw.cfg = s.cfg := by cases s; rfl
@[simp] theorem State.countDraw_regs (s : State) : s.countDraw.regs = s.regs := by cases s; rfl
@[simp] theorem State.countDraw_mem (s : State) : s.countDraw.mem = s.mem := by cases s; rfl
@[simp] theorem State.countDraw_hidden (s : State) : s.countDraw.hidden = s.hidden := by cases s; rfl
@[simp] theorem State.countDraw_epoch (s : State) : s.countDraw.epoch = s.epoch := by cases s; rfl
@[simp] theorem State.countDraw_allocDraws (s : State) : s.countDraw.allocDraws = s.allocDraws + 1 := by cases s; rfl
@[simp] theorem State.countDraw_bus (s : State) : s.countDraw.bus = s.bus := by cases s; rfl
@[simp] theorem State.countDraw_reply (s : State) : s.countDraw.reply = s.reply := by cases s; rfl

/-! State.complete -/

@[simp] theorem State.complete_cfg (s : State) (es : List BusEvent) (p : Reply) : (s.complete es p).cfg = s.cfg := by cases s; rfl
@[simp] theorem State.complete_regs (s : State) (es : List BusEvent) (p : Reply) : (s.complete es p).regs = s.regs := by cases s; rfl
@[simp] theorem State.complete_mem (s : State) (es : List BusEvent) (p : Reply) : (s.complete es p).mem = s.mem := by cases s; rfl
@[simp] theorem State.complete_hidden (s : State) (es : List BusEvent) (p : Reply) : (s.complete es p).hidden = s.hidden := by cases s; rfl
@[simp] theorem State.complete_epoch (s : State) (es : List BusEvent) (p : Reply) : (s.complete es p).epoch = s.epoch := by cases s; rfl
@[simp] theorem State.complete_allocDraws (s : State) (es : List BusEvent) (p : Reply) : (s.complete es p).allocDraws = s.allocDraws := by cases s; rfl
@[simp] theorem State.complete_bus (s : State) (es : List BusEvent) (p : Reply) : (s.complete es p).bus = es := by cases s; rfl
@[simp] theorem State.complete_reply (s : State) (es : List BusEvent) (p : Reply) : (s.complete es p).reply = some p := by cases s; rfl

/-! Regs.setStatus -/

@[simp] theorem Regs.setStatus_ok (r : Regs) (o : Bool) (c : BitVec 4) : (r.setStatus o c).ok = o := rfl
@[simp] theorem Regs.setStatus_code (r : Regs) (o : Bool) (c : BitVec 4) : (r.setStatus o c).code = c := rfl
@[simp] theorem Regs.setStatus_args (r : Regs) (o : Bool) (c : BitVec 4) : (r.setStatus o c).args = r.args := rfl
@[simp] theorem Regs.setStatus_passLen (r : Regs) (o : Bool) (c : BitVec 4) : (r.setStatus o c).passLen = r.passLen := rfl
@[simp] theorem Regs.setStatus_saltLen (r : Regs) (o : Bool) (c : BitVec 4) : (r.setStatus o c).saltLen = r.saltLen := rfl
@[simp] theorem Regs.setStatus_ctxSize (r : Regs) (o : Bool) (c : BitVec 4) : (r.setStatus o c).ctxSize = r.ctxSize := rfl
@[simp] theorem Regs.setStatus_encArg (r : Regs) (o : Bool) (c : BitVec 4) : (r.setStatus o c).encArg = r.encArg := rfl
@[simp] theorem Regs.setStatus_encRes (r : Regs) (o : Bool) (c : BitVec 4) : (r.setStatus o c).encRes = r.encRes := rfl
@[simp] theorem Regs.setStatus_saltNum (r : Regs) (o : Bool) (c : BitVec 4) : (r.setStatus o c).saltNum = r.saltNum := rfl
@[simp] theorem Regs.setStatus_saltCh (r : Regs) (o : Bool) (c : BitVec 4) : (r.setStatus o c).saltCh = r.saltCh := rfl
@[simp] theorem Regs.setStatus_keyLo (r : Regs) (o : Bool) (c : BitVec 4) : (r.setStatus o c).keyLo = r.keyLo := rfl
@[simp] theorem Regs.setStatus_keyHi (r : Regs) (o : Bool) (c : BitVec 4) : (r.setStatus o c).keyHi = r.keyHi := rfl
@[simp] theorem Regs.setStatus_digLo (r : Regs) (o : Bool) (c : BitVec 4) : (r.setStatus o c).digLo = r.digLo := rfl
@[simp] theorem Regs.setStatus_digHi (r : Regs) (o : Bool) (c : BitVec 4) : (r.setStatus o c).digHi = r.digHi := rfl
@[simp] theorem Regs.setStatus_outW0 (r : Regs) (o : Bool) (c : BitVec 4) : (r.setStatus o c).outW0 = r.outW0 := rfl
@[simp] theorem Regs.setStatus_outW1 (r : Regs) (o : Bool) (c : BitVec 4) : (r.setStatus o c).outW1 = r.outW1 := rfl
@[simp] theorem Regs.setStatus_outW2 (r : Regs) (o : Bool) (c : BitVec 4) : (r.setStatus o c).outW2 = r.outW2 := rfl
@[simp] theorem Regs.setStatus_outW3 (r : Regs) (o : Bool) (c : BitVec 4) : (r.setStatus o c).outW3 = r.outW3 := rfl

/-! Regs.setEncRes -/

@[simp] theorem Regs.setEncRes_ok (r : Regs) (v : Byte) : (r.setEncRes v).ok = r.ok := rfl
@[simp] theorem Regs.setEncRes_code (r : Regs) (v : Byte) : (r.setEncRes v).code = r.code := rfl
@[simp] theorem Regs.setEncRes_args (r : Regs) (v : Byte) : (r.setEncRes v).args = r.args := rfl
@[simp] theorem Regs.setEncRes_passLen (r : Regs) (v : Byte) : (r.setEncRes v).passLen = r.passLen := rfl
@[simp] theorem Regs.setEncRes_saltLen (r : Regs) (v : Byte) : (r.setEncRes v).saltLen = r.saltLen := rfl
@[simp] theorem Regs.setEncRes_ctxSize (r : Regs) (v : Byte) : (r.setEncRes v).ctxSize = r.ctxSize := rfl
@[simp] theorem Regs.setEncRes_encArg (r : Regs) (v : Byte) : (r.setEncRes v).encArg = r.encArg := rfl
@[simp] theorem Regs.setEncRes_encRes (r : Regs) (v : Byte) : (r.setEncRes v).encRes = v := rfl
@[simp] theorem Regs.setEncRes_saltNum (r : Regs) (v : Byte) : (r.setEncRes v).saltNum = r.saltNum := rfl
@[simp] theorem Regs.setEncRes_saltCh (r : Regs) (v : Byte) : (r.setEncRes v).saltCh = r.saltCh := rfl
@[simp] theorem Regs.setEncRes_keyLo (r : Regs) (v : Byte) : (r.setEncRes v).keyLo = r.keyLo := rfl
@[simp] theorem Regs.setEncRes_keyHi (r : Regs) (v : Byte) : (r.setEncRes v).keyHi = r.keyHi := rfl
@[simp] theorem Regs.setEncRes_digLo (r : Regs) (v : Byte) : (r.setEncRes v).digLo = r.digLo := rfl
@[simp] theorem Regs.setEncRes_digHi (r : Regs) (v : Byte) : (r.setEncRes v).digHi = r.digHi := rfl
@[simp] theorem Regs.setEncRes_outW0 (r : Regs) (v : Byte) : (r.setEncRes v).outW0 = r.outW0 := rfl
@[simp] theorem Regs.setEncRes_outW1 (r : Regs) (v : Byte) : (r.setEncRes v).outW1 = r.outW1 := rfl
@[simp] theorem Regs.setEncRes_outW2 (r : Regs) (v : Byte) : (r.setEncRes v).outW2 = r.outW2 := rfl
@[simp] theorem Regs.setEncRes_outW3 (r : Regs) (v : Byte) : (r.setEncRes v).outW3 = r.outW3 := rfl

/-! Regs.setKey -/

@[simp] theorem Regs.setKey_ok (r : Regs) (k : Block) : (r.setKey k).ok = r.ok := rfl
@[simp] theorem Regs.setKey_code (r : Regs) (k : Block) : (r.setKey k).code = r.code := rfl
@[simp] theorem Regs.setKey_args (r : Regs) (k : Block) : (r.setKey k).args = r.args := rfl
@[simp] theorem Regs.setKey_passLen (r : Regs) (k : Block) : (r.setKey k).passLen = r.passLen := rfl
@[simp] theorem Regs.setKey_saltLen (r : Regs) (k : Block) : (r.setKey k).saltLen = r.saltLen := rfl
@[simp] theorem Regs.setKey_ctxSize (r : Regs) (k : Block) : (r.setKey k).ctxSize = r.ctxSize := rfl
@[simp] theorem Regs.setKey_encArg (r : Regs) (k : Block) : (r.setKey k).encArg = r.encArg := rfl
@[simp] theorem Regs.setKey_encRes (r : Regs) (k : Block) : (r.setKey k).encRes = r.encRes := rfl
@[simp] theorem Regs.setKey_saltNum (r : Regs) (k : Block) : (r.setKey k).saltNum = r.saltNum := rfl
@[simp] theorem Regs.setKey_saltCh (r : Regs) (k : Block) : (r.setKey k).saltCh = r.saltCh := rfl
@[simp] theorem Regs.setKey_keyLo (r : Regs) (k : Block) : (r.setKey k).keyLo = k.extractLsb' 0 32 := rfl
@[simp] theorem Regs.setKey_keyHi (r : Regs) (k : Block) : (r.setKey k).keyHi = k.extractLsb' 32 32 := rfl
@[simp] theorem Regs.setKey_digLo (r : Regs) (k : Block) : (r.setKey k).digLo = r.digLo := rfl
@[simp] theorem Regs.setKey_digHi (r : Regs) (k : Block) : (r.setKey k).digHi = r.digHi := rfl
@[simp] theorem Regs.setKey_outW0 (r : Regs) (k : Block) : (r.setKey k).outW0 = r.outW0 := rfl
@[simp] theorem Regs.setKey_outW1 (r : Regs) (k : Block) : (r.setKey k).outW1 = r.outW1 := rfl
@[simp] theorem Regs.setKey_outW2 (r : Regs) (k : Block) : (r.setKey k).outW2 = r.outW2 := rfl
@[simp] theorem Regs.setKey_outW3 (r : Regs) (k : Block) : (r.setKey k).outW3 = r.outW3 := rfl

/-! Regs.setDigest -/

@[simp] theorem Regs.setDigest_ok (r : Regs) (d : Block) : (r.setDigest d).ok = r.ok := rfl
@[simp] theorem Regs.setDigest_code (r : Regs) (d : Block) : (r.setDigest d).code = r.code := rfl
@[simp] theorem Regs.setDigest_args (r : Regs) (d : Block) : (r.setDigest d).args = r.args := rfl
@[simp] theorem Regs.setDigest_passLen (r : Regs) (d : Block) : (r.setDigest d).passLen = r.passLen := rfl
@[simp] theorem Regs.setDigest_saltLen (r : Regs) (d : Block) : (r.setDigest d).saltLen = r.saltLen := rfl
@[simp] theorem Regs.setDigest_ctxSize (r : Regs) (d : Block) : (r.setDigest d).ctxSize = r.ctxSize := rfl
@[simp] theorem Regs.setDigest_encArg (r : Regs) (d : Block) : (r.setDigest d).encArg = r.encArg := rfl
@[simp] theorem Regs.setDigest_encRes (r : Regs) (d : Block) : (r.setDigest d).encRes = r.encRes := rfl
@[simp] theorem Regs.setDigest_saltNum (r : Regs) (d : Block) : (r.setDigest d).saltNum = r.saltNum := rfl
@[simp] theorem Regs.setDigest_saltCh (r : Regs) (d : Block) : (r.setDigest d).saltCh = r.saltCh := rfl
@[simp] theorem Regs.setDigest_keyLo (r : Regs) (d : Block) : (r.setDigest d).keyLo = r.keyLo := rfl
@[simp] theorem Regs.setDigest_keyHi (r : Regs) (d : Block) : (r.setDigest d).keyHi = r.keyHi := rfl
@[simp] theorem Regs.setDigest_digLo (r : Regs) (d : Block) : (r.setDigest d).digLo = d.extractLsb' 0 32 := rfl
@[simp] theorem Regs.setDigest_digHi (r : Regs) (d : Block) : (r.setDigest d).digHi = d.extractLsb' 32 32 := rfl
@[simp] theorem Regs.setDigest_outW0 (r : Regs) (d : Block) : (r.setDigest d).outW0 = r.outW0 := rfl
@[simp] theorem Regs.setDigest_outW1 (r : Regs) (d : Block) : (r.setDigest d).outW1 = r.outW1 := rfl
@[simp] theorem Regs.setDigest_outW2 (r : Regs) (d : Block) : (r.setDigest d).outW2 = r.outW2 := rfl
@[simp] theorem Regs.setDigest_outW3 (r : Regs) (d : Block) : (r.setDigest d).outW3 = r.outW3 := rfl

/-! Regs.setOutW -/

@[simp] theorem Regs.setOutW_ok (r : Regs) (w0 w1 w2 w3 : Word) : (r.setOutW w0 w1 w2 w3).ok = r.ok := rfl
@[simp] theorem Regs.setOutW_code (r : Regs) (w0 w1 w2 w3 : Word) : (r.setOutW w0 w1 w2 w3).code = r.code := rfl
@[simp] theorem Regs.setOutW_args (r : Regs) (w0 w1 w2 w3 : Word) : (r.setOutW w0 w1 w2 w3).args = r.args := rfl
@[simp] theorem Regs.setOutW_passLen (r : Regs) (w0 w1 w2 w3 : Word) : (r.setOutW w0 w1 w2 w3).passLen = r.passLen := rfl
@[simp] theorem Regs.setOutW_saltLen (r : Regs) (w0 w1 w2 w3 : Word) : (r.setOutW w0 w1 w2 w3).saltLen = r.saltLen := rfl
@[simp] theorem Regs.setOutW_ctxSize (r : Regs) (w0 w1 w2 w3 : Word) : (r.setOutW w0 w1 w2 w3).ctxSize = r.ctxSize := rfl
@[simp] theorem Regs.setOutW_encArg (r : Regs) (w0 w1 w2 w3 : Word) : (r.setOutW w0 w1 w2 w3).encArg = r.encArg := rfl
@[simp] theorem Regs.setOutW_encRes (r : Regs) (w0 w1 w2 w3 : Word) : (r.setOutW w0 w1 w2 w3).encRes = r.encRes := rfl
@[simp] theorem Regs.setOutW_saltNum (r : Regs) (w0 w1 w2 w3 : Word) : (r.setOutW w0 w1 w2 w3).saltNum = r.saltNum := rfl
@[simp] theorem Regs.setOutW_saltCh (r : Regs) (w0 w1 w2 w3 : Word) : (r.setOutW w0 w1 w2 w3).saltCh = r.saltCh := rfl
@[simp] theorem Regs.setOutW_keyLo (r : Regs) (w0 w1 w2 w3 : Word) : (r.setOutW w0 w1 w2 w3).keyLo = r.keyLo := rfl
@[simp] theorem Regs.setOutW_keyHi (r : Regs) (w0 w1 w2 w3 : Word) : (r.setOutW w0 w1 w2 w3).keyHi = r.keyHi := rfl
@[simp] theorem Regs.setOutW_digLo (r : Regs) (w0 w1 w2 w3 : Word) : (r.setOutW w0 w1 w2 w3).digLo = r.digLo := rfl
@[simp] theorem Regs.setOutW_digHi (r : Regs) (w0 w1 w2 w3 : Word) : (r.setOutW w0 w1 w2 w3).digHi = r.digHi := rfl
@[simp] theorem Regs.setOutW_outW0 (r : Regs) (w0 w1 w2 w3 : Word) : (r.setOutW w0 w1 w2 w3).outW0 = w0 := rfl
@[simp] theorem Regs.setOutW_outW1 (r : Regs) (w0 w1 w2 w3 : Word) : (r.setOutW w0 w1 w2 w3).outW1 = w1 := rfl
@[simp] theorem Regs.setOutW_outW2 (r : Regs) (w0 w1 w2 w3 : Word) : (r.setOutW w0 w1 w2 w3).outW2 = w2 := rfl
@[simp] theorem Regs.setOutW_outW3 (r : Regs) (w0 w1 w2 w3 : Word) : (r.setOutW w0 w1 w2 w3).outW3 = w3 := rfl

/-! Regs.setArgs -/

@[simp] theorem Regs.setArgs_ok (r : Regs) (v : BitVec 2) : (r.setArgs v).ok = r.ok := rfl
@[simp] theorem Regs.setArgs_code (r : Regs) (v : BitVec 2) : (r.setArgs v).code = r.code := rfl
@[simp] theorem Regs.setArgs_args (r : Regs) (v : BitVec 2) : (r.setArgs v).args = v := rfl
@[simp] theorem Regs.setArgs_passLen (r : Regs) (v : BitVec 2) : (r.setArgs v).passLen = r.passLen := rfl
@[simp] theorem Regs.setArgs_saltLen (r : Regs) (v : BitVec 2) : (r.setArgs v).saltLen = r.saltLen := rfl
@[simp] theorem Regs.setArgs_ctxSize (r : Regs) (v : BitVec 2) : (r.setArgs v).ctxSize = r.ctxSize := rfl
@[simp] theorem Regs.setArgs_encArg (r : Regs) (v : BitVec 2) : (r.setArgs v).encArg = r.encArg := rfl
@[simp] theorem Regs.setArgs_encRes (r : Regs) (v : BitVec 2) : (r.setArgs v).encRes = r.encRes := rfl
@[simp] theorem Regs.setArgs_saltNum (r : Regs) (v : BitVec 2) : (r.setArgs v).saltNum = r.saltNum := rfl
@[simp] theorem Regs.setArgs_saltCh (r : Regs) (v : BitVec 2) : (r.setArgs v).saltCh = r.saltCh := rfl
@[simp] theorem Regs.setArgs_keyLo (r : Regs) (v : BitVec 2) : (r.setArgs v).keyLo = r.keyLo := rfl
@[simp] theorem Regs.setArgs_keyHi (r : Regs) (v : BitVec 2) : (r.setArgs v).keyHi = r.keyHi := rfl
@[simp] theorem Regs.setArgs_digLo (r : Regs) (v : BitVec 2) : (r.setArgs v).digLo = r.digLo := rfl
@[simp] theorem Regs.setArgs_digHi (r : Regs) (v : BitVec 2) : (r.setArgs v).digHi = r.digHi := rfl
@[simp] theorem Regs.setArgs_outW0 (r : Regs) (v : BitVec 2) : (r.setArgs v).outW0 = r.outW0 := rfl
@[simp] theorem Regs.setArgs_outW1 (r : Regs) (v : BitVec 2) : (r.setArgs v).outW1 = r.outW1 := rfl
@[simp] theorem Regs.setArgs_outW2 (r : Regs) (v : BitVec 2) : (r.setArgs v).outW2 = r.outW2 := rfl
@[simp] theorem Regs.setArgs_outW3 (r : Regs) (v : BitVec 2) : (r.setArgs v).outW3 = r.outW3 := rfl

/-! Regs.setPassLen -/

@[simp] theorem Regs.setPassLen_ok (r : Regs) (v : Word) : (r.setPassLen v).ok = r.ok := rfl
@[simp] theorem Regs.setPassLen_code (r : Regs) (v : Word) : (r.setPassLen v).code = r.code := rfl
@[simp] theorem Regs.setPassLen_args (r : Regs) (v : Word) : (r.setPassLen v).args = r.args := rfl
@[simp] theorem Regs.setPassLen_passLen (r : Regs) (v : Word) : (r.setPassLen v).passLen = v := rfl
@[simp] theorem Regs.setPassLen_saltLen (r : Regs) (v : Word) : (r.setPassLen v).saltLen = r.saltLen := rfl
@[simp] theorem Regs.setPassLen_ctxSize (r : Regs) (v : Word) : (r.setPassLen v).ctxSize = r.ctxSize := rfl
@[simp] theorem Regs.setPassLen_encArg (r : Regs) (v : Word) : (r.setPassLen v).encArg = r.encArg := rfl
@[simp] theorem Regs.setPassLen_encRes (r : Regs) (v : Word) : (r.setPassLen v).encRes = r.encRes := rfl
@[simp] theorem Regs.setPassLen_saltNum (r : Regs) (v : Word) : (r.setPassLen v).saltNum = r.saltNum := rfl
@[simp] theorem Regs.setPassLen_saltCh (r : Regs) (v : Word) : (r.setPassLen v).saltCh = r.saltCh := rfl
@[simp] theorem Regs.setPassLen_keyLo (r : Regs) (v : Word) : (r.setPassLen v).keyLo = r.keyLo := rfl
@[simp] theorem Regs.setPassLen_keyHi (r : Regs) (v : Word) : (r.setPassLen v).keyHi = r.keyHi := rfl
@[simp] theorem Regs.setPassLen_digLo (r : Regs) (v : Word) : (r.setPassLen v).digLo = r.digLo := rfl
@[simp] theorem Regs.setPassLen_digHi (r : Regs) (v : Word) : (r.setPassLen v).digHi = r.digHi := rfl
@[simp] theorem Regs.setPassLen_outW0 (r : Regs) (v : Word) : (r.setPassLen v).outW0 = r.outW0 := rfl
@[simp] theorem Regs.setPassLen_outW1 (r : Regs) (v : Word) : (r.setPassLen v).outW1 = r.outW1 := rfl
@[simp] theorem Regs.setPassLen_outW2 (r : Regs) (v : Word) : (r.setPassLen v).outW2 = r.outW2 := rfl
@[simp] theorem Regs.setPassLen_outW3 (r : Regs) (v : Word) : (r.setPassLen v).outW3 = r.outW3 := rfl

/-! Regs.setSaltLen -/

@[simp] theorem Regs.setSaltLen_ok (r : Regs) (v : Word) : (r.setSaltLen v).ok = r.ok := rfl
@[simp] theorem Regs.setSaltLen_code (r : Regs) (v : Word) : (r.setSaltLen v).code = r.code := rfl
@[simp] theorem Regs.setSaltLen_args (r : Regs) (v : Word) : (r.setSaltLen v).args = r.args := rfl
@[simp] theorem Regs.setSaltLen_passLen (r : Regs) (v : Word) : (r.setSaltLen v).passLen = r.passLen := rfl
@[simp] theorem Regs.setSaltLen_saltLen (r : Regs) (v : Word) : (r.setSaltLen v).saltLen = v := rfl
@[simp] theorem Regs.setSaltLen_ctxSize (r : Regs) (v : Word) : (r.setSaltLen v).ctxSize = r.ctxSize := rfl
@[simp] theorem Regs.setSaltLen_encArg (r : Regs) (v : Word) : (r.setSaltLen v).encArg = r.encArg := rfl
@[simp] theorem Regs.setSaltLen_encRes (r : Regs) (v : Word) : (r.setSaltLen v).encRes = r.encRes := rfl
@[simp] theorem Regs.setSaltLen_saltNum (r : Regs) (v : Word) : (r.setSaltLen v).saltNum = r.saltNum := rfl
@[simp] theorem Regs.setSaltLen_saltCh (r : Regs) (v : Word) : (r.setSaltLen v).saltCh = r.saltCh := rfl
@[simp] theorem Regs.setSaltLen_keyLo (r : Regs) (v : Word) : (r.setSaltLen v).keyLo = r.keyLo := rfl
@[simp] theorem Regs.setSaltLen_keyHi (r : Regs) (v : Word) : (r.setSaltLen v).keyHi = r.keyHi := rfl
@[simp] theorem Regs.setSaltLen_digLo (r : Regs) (v : Word) : (r.setSaltLen v).digLo = r.digLo := rfl
@[simp] theorem Regs.setSaltLen_digHi (r : Regs) (v : Word) : (r.setSaltLen v).digHi = r.digHi := rfl
@[simp] theorem Regs.setSaltLen_outW0 (r : Regs) (v : Word) : (r.setSaltLen v).outW0 = r.outW0 := rfl
@[simp] theorem Regs.setSaltLen_outW1 (r : Regs) (v : Word) : (r.setSaltLen v).outW1 = r.outW1 := rfl
@[simp] theorem Regs.setSaltLen_outW2 (r : Regs) (v : Word) : (r.setSaltLen v).outW2 = r.outW2 := rfl
@[simp] theorem Regs.setSaltLen_outW3 (r : Regs) (v : Word) : (r.setSaltLen v).outW3 = r.outW3 := rfl

/-! Regs.setCtxSize -/

@[simp] theorem Regs.setCtxSize_ok (r : Regs) (v : Word) : (r.setCtxSize v).ok = r.ok := rfl
@[simp] theorem Regs.setCtxSize_code (r : Regs) (v : Word) : (r.setCtxSize v).code = r.code := rfl
@[simp] theorem Regs.setCtxSize_args (r : Regs) (v : Word) : (r.setCtxSize v).args = r.args := rfl
@[simp] theorem Regs.setCtxSize_passLen (r : Regs) (v : Word) : (r.setCtxSize v).passLen = r.passLen := rfl
@[simp] theorem Regs.setCtxSize_saltLen (r : Regs) (v : Word) : (r.setCtxSize v).saltLen = r.saltLen := rfl
@[simp] theorem Regs.setCtxSize_ctxSize (r : Regs) (v : Word) : (r.setCtxSize v).ctxSize = v := rfl
@[simp] theorem Regs.setCtxSize_encArg (r : Regs) (v : Word) : (r.setCtxSize v).encArg = r.encArg := rfl
@[simp] theorem Regs.setCtxSize_encRes (r : Regs) (v : Word) : (r.setCtxSize v).encRes = r.encRes := rfl
@[simp] theorem Regs.setCtxSize_saltNum (r : Regs) (v : Word) : (r.setCtxSize v).saltNum = r.saltNum := rfl
@[simp] theorem Regs.setCtxSize_saltCh (r : Regs) (v : Word) : (r.setCtxSize v).saltCh = r.saltCh := rfl
@[simp] theorem Regs.setCtxSize_keyLo (r : Regs) (v : Word) : (r.setCtxSize v).keyLo = r.keyLo := rfl
@[simp] theorem Regs.setCtxSize_keyHi (r : Regs) (v : Word) : (r.setCtxSize v).keyHi = r.keyHi := rfl
@[simp] theorem Regs.setCtxSize_digLo (r : Regs) (v : Word) : (r.setCtxSize v).digLo = r.digLo := rfl
@[simp] theorem Regs.setCtxSize_digHi (r : Regs) (v : Word) : (r.setCtxSize v).digHi = r.digHi := rfl
@[simp] theorem Regs.setCtxSize_outW0 (r : Regs) (v : Word) : (r.setCtxSize v).outW0 = r.outW0 := rfl
@[simp] theorem Regs.setCtxSize_outW1 (r : Regs) (v : Word) : (r.setCtxSize v).outW1 = r.outW1 := rfl
@[simp] theorem Regs.setCtxSize_outW2 (r : Regs) (v : Word) : (r.setCtxSize v).outW2 = r.outW2 := rfl
@[simp] theorem Regs.setCtxSize_outW3 (r : Regs) (v : Word) : (r.setCtxSize v).outW3 = r.outW3 := rfl

/-! Regs.setEncArg -/

@[simp] theorem Regs.setEncArg_ok (r : Regs) (v : Word) : (r.setEncArg v).ok = r.ok := rfl
@[simp] theorem Regs.setEncArg_code (r : Regs) (v : Word) : (r.setEncArg v).code = r.code := rfl
@[simp] theorem Regs.setEncArg_args (r : Regs) (v : Word) : (r.setEncArg v).args = r.args := rfl
@[simp] theorem Regs.setEncArg_passLen (r : Regs) (v : Word) : (r.setEncArg v).passLen = r.passLen := rfl
@[simp] theorem Regs.setEncArg_saltLen (r : Regs) (v : Word) : (r.setEncArg v).saltLen = r.saltLen := rfl
@[simp] theorem Regs.setEncArg_ctxSize (r : Regs) (v : Word) : (r.setEncArg v).ctxSize = r.ctxSize := rfl
@[simp] theorem Regs.setEncArg_encArg (r : Regs) (v : Word) : (r.setEncArg v).encArg = v := rfl
@[simp] theorem Regs.setEncArg_encRes (r : Regs) (v : Word) : (r.setEncArg v).encRes = r.encRes := rfl
@[simp] theorem Regs.setEncArg_saltNum (r : Regs) (v : Word) : (r.setEncArg v).saltNum = r.saltNum := rfl
@[simp] theorem Regs.setEncArg_saltCh (r : Regs) (v : Word) : (r.setEncArg v).saltCh = r.saltCh := rfl
@[simp] theorem Regs.setEncArg_keyLo (r : Regs) (v : Word) : (r.setEncArg v).keyLo = r.keyLo := rfl
@[simp] theorem Regs.setEncArg_keyHi (r : Regs) (v : Word) : (r.setEncArg v).keyHi = r.keyHi := rfl
@[simp] theorem Regs.setEncArg_digLo (r : Regs) (v : Word) : (r.setEncArg v).digLo = r.digLo := rfl
@[simp] theorem Regs.setEncArg_digHi (r : Regs) (v : Word) : (r.setEncArg v).digHi = r.digHi := rfl
@[simp] theorem Regs.setEncArg_outW0 (r : Regs) (v : Word) : (r.setEncArg v).outW0 = r.outW0 := rfl
@[simp] theorem Regs.setEncArg_outW1 (r : Regs) (v : Word) : (r.setEncArg v).outW1 = r.outW1 := rfl
@[simp] theorem Regs.setEncArg_outW2 (r : Regs) (v : Word) : (r.setEncArg v).outW2 = r.outW2 := rfl
@[simp] theorem Regs.setEncArg_outW3 (r : Regs) (v : Word) : (r.setEncArg v).outW3 = r.outW3 := rfl

/-! Regs.setSaltNum -/

@[simp] theorem Regs.setSaltNum_ok (r : Regs) (v : BitVec 12) : (r.setSaltNum v).ok = r.ok := rfl
@[simp] theorem Regs.setSaltNum_code (r : Regs) (v : BitVec 12) : (r.setSaltNum v).code = r.code := rfl
@[simp] theorem Regs.setSaltNum_args (r : Regs) (v : BitVec 12) : (r.setSaltNum v).args = r.args := rfl
@[simp] theorem Regs.setSaltNum_passLen (r : Regs) (v : BitVec 12) : (r.setSaltNum v).passLen = r.passLen := rfl
@[simp] theorem Regs.setSaltNum_saltLen (r : Regs) (v : BitVec 12) : (r.setSaltNum v).saltLen = r.saltLen := rfl
@[simp] theorem Regs.setSaltNum_ctxSize (r : Regs) (v : BitVec 12) : (r.setSaltNum v).ctxSize = r.ctxSize := rfl
@[simp] theorem Regs.setSaltNum_encArg (r : Regs) (v : BitVec 12) : (r.setSaltNum v).encArg = r.encArg := rfl
@[simp] theorem Regs.setSaltNum_encRes (r : Regs) (v : BitVec 12) : (r.setSaltNum v).encRes = r.encRes := rfl
@[simp] theorem Regs.setSaltNum_saltNum (r : Regs) (v : BitVec 12) : (r.setSaltNum v).saltNum = v := rfl
@[simp] theorem Regs.setSaltNum_saltCh (r : Regs) (v : BitVec 12) : (r.setSaltNum v).saltCh = r.saltCh := rfl
@[simp] theorem Regs.setSaltNum_keyLo (r : Regs) (v : BitVec 12) : (r.setSaltNum v).keyLo = r.keyLo := rfl
@[simp] theorem Regs.setSaltNum_keyHi (r : Regs) (v : BitVec 12) : (r.setSaltNum v).keyHi = r.keyHi := rfl
@[simp] theorem Regs.setSaltNum_digLo (r : Regs) (v : BitVec 12) : (r.setSaltNum v).digLo = r.digLo := rfl
@[simp] theorem Regs.setSaltNum_digHi (r : Regs) (v : BitVec 12) : (r.setSaltNum v).digHi = r.digHi := rfl
@[simp] theorem Regs.setSaltNum_outW0 (r : Regs) (v : BitVec 12) : (r.setSaltNum v).outW0 = r.outW0 := rfl
@[simp] theorem Regs.setSaltNum_outW1 (r : Regs) (v : BitVec 12) : (r.setSaltNum v).outW1 = r.outW1 := rfl
@[simp] theorem Regs.setSaltNum_outW2 (r : Regs) (v : BitVec 12) : (r.setSaltNum v).outW2 = r.outW2 := rfl
@[simp] theorem Regs.setSaltNum_outW3 (r : Regs) (v : BitVec 12) : (r.setSaltNum v).outW3 = r.outW3 := rfl

/-! Regs.setSaltCh -/

@[simp] theorem Regs.setSaltCh_ok (r : Regs) (v : BitVec 16) : (r.setSaltCh v).ok = r.ok := rfl
@[simp] theorem Regs.setSaltCh_code (r : Regs) (v : BitVec 16) : (r.setSaltCh v).code = r.code := rfl
@[simp] theorem Regs.setSaltCh_args (r : Regs) (v : BitVec 16) : (r.setSaltCh v).args = r.args := rfl
@[simp] theorem Regs.setSaltCh_passLen (r : Regs) (v : BitVec 16) : (r.setSaltCh v).passLen = r.passLen := rfl
@[simp] theorem Regs.setSaltCh_saltLen (r : Regs) (v : BitVec 16) : (r.setSaltCh v).saltLen = r.saltLen := rfl
@[simp] theorem Regs.setSaltCh_ctxSize (r : Regs) (v : BitVec 16) : (r.setSaltCh v).ctxSize = r.ctxSize := rfl
@[simp] theorem Regs.setSaltCh_encArg (r : Regs) (v : BitVec 16) : (r.setSaltCh v).encArg = r.encArg := rfl
@[simp] theorem Regs.setSaltCh_encRes (r : Regs) (v : BitVec 16) : (r.setSaltCh v).encRes = r.encRes := rfl
@[simp] theorem Regs.setSaltCh_saltNum (r : Regs) (v : BitVec 16) : (r.setSaltCh v).saltNum = r.saltNum := rfl
@[simp] theorem Regs.setSaltCh_saltCh (r : Regs) (v : BitVec 16) : (r.setSaltCh v).saltCh = v := rfl
@[simp] theorem Regs.setSaltCh_keyLo (r : Regs) (v : BitVec 16) : (r.setSaltCh v).keyLo = r.keyLo := rfl
@[simp] theorem Regs.setSaltCh_keyHi (r : Regs) (v : BitVec 16) : (r.setSaltCh v).keyHi = r.keyHi := rfl
@[simp] theorem Regs.setSaltCh_digLo (r : Regs) (v : BitVec 16) : (r.setSaltCh v).digLo = r.digLo := rfl
@[simp] theorem Regs.setSaltCh_digHi (r : Regs) (v : BitVec 16) : (r.setSaltCh v).digHi = r.digHi := rfl
@[simp] theorem Regs.setSaltCh_outW0 (r : Regs) (v : BitVec 16) : (r.setSaltCh v).outW0 = r.outW0 := rfl
@[simp] theorem Regs.setSaltCh_outW1 (r : Regs) (v : BitVec 16) : (r.setSaltCh v).outW1 = r.outW1 := rfl
@[simp] theorem Regs.setSaltCh_outW2 (r : Regs) (v : BitVec 16) : (r.setSaltCh v).outW2 = r.outW2 := rfl
@[simp] theorem Regs.setSaltCh_outW3 (r : Regs) (v : BitVec 16) : (r.setSaltCh v).outW3 = r.outW3 := rfl

/-! Regs.setKeyLo -/

@[simp] theorem Regs.setKeyLo_ok (r : Regs) (v : Word) : (r.setKeyLo v).ok = r.ok := rfl
@[simp] theorem Regs.setKeyLo_code (r : Regs) (v : Word) : (r.setKeyLo v).code = r.code := rfl
@[simp] theorem Regs.setKeyLo_args (r : Regs) (v : Word) : (r.setKeyLo v).args = r.args := rfl
@[simp] theorem Regs.setKeyLo_passLen (r : Regs) (v : Word) : (r.setKeyLo v).passLen = r.passLen := rfl
@[simp] theorem Regs.setKeyLo_saltLen (r : Regs) (v : Word) : (r.setKeyLo v).saltLen = r.saltLen := rfl
@[simp] theorem Regs.setKeyLo_ctxSize (r : Regs) (v : Word) : (r.setKeyLo v).ctxSize = r.ctxSize := rfl
@[simp] theorem Regs.setKeyLo_encArg (r : Regs) (v : Word) : (r.setKeyLo v).encArg = r.encArg := rfl
@[simp] theorem Regs.setKeyLo_encRes (r : Regs) (v : Word) : (r.setKeyLo v).encRes = r.encRes := rfl
@[simp] theorem Regs.setKeyLo_saltNum (r : Regs) (v : Word) : (r.setKeyLo v).saltNum = r.saltNum := rfl
@[simp] theorem Regs.setKeyLo_saltCh (r : Regs) (v : Word) : (r.setKeyLo v).saltCh = r.saltCh := rfl
@[simp] theorem Regs.setKeyLo_keyLo (r : Regs) (v : Word) : (r.setKeyLo v).keyLo = v := rfl
@[simp] theorem Regs.setKeyLo_keyHi (r : Regs) (v : Word) : (r.setKeyLo v).keyHi = r.keyHi := rfl
@[simp] theorem Regs.setKeyLo_digLo (r : Regs) (v : Word) : (r.setKeyLo v).digLo = r.digLo := rfl
@[simp] theorem Regs.setKeyLo_digHi (r : Regs) (v : Word) : (r.setKeyLo v).digHi = r.digHi := rfl
@[simp] theorem Regs.setKeyLo_outW0 (r : Regs) (v : Word) : (r.setKeyLo v).outW0 = r.outW0 := rfl
@[simp] theorem Regs.setKeyLo_outW1 (r : Regs) (v : Word) : (r.setKeyLo v).outW1 = r.outW1 := rfl
@[simp] theorem Regs.setKeyLo_outW2 (r : Regs) (v : Word) : (r.setKeyLo v).outW2 = r.outW2 := rfl
@[simp] theorem Regs.setKeyLo_outW3 (r : Regs) (v : Word) : (r.setKeyLo v).outW3 = r.outW3 := rfl

/-! Regs.setKeyHi -/

@[simp] theorem Regs.setKeyHi_ok (r : Regs) (v : Word) : (r.setKeyHi v).ok = r.ok := rfl
@[simp] theorem Regs.setKeyHi_code (r : Regs) (v : Word) : (r.setKeyHi v).code = r.code := rfl
@[simp] theorem Regs.setKeyHi_args (r : Regs) (v : Word) : (r.setKeyHi v).args = r.args := rfl
@[simp] theorem Regs.setKeyHi_passLen (r : Regs) (v : Word) : (r.setKeyHi v).passLen = r.passLen := rfl
@[simp] theorem Regs.setKeyHi_saltLen (r : Regs) (v : Word) : (r.setKeyHi v).saltLen = r.saltLen := rfl
@[simp] theorem Regs.setKeyHi_ctxSize (r : Regs) (v : Word) : (r.setKeyHi v).ctxSize = r.ctxSize := rfl
@[simp] theorem Regs.setKeyHi_encArg (r : Regs) (v : Word) : (r.setKeyHi v).encArg = r.encArg := rfl
@[simp] theorem Regs.setKeyHi_encRes (r : Regs) (v : Word) : (r.setKeyHi v).encRes = r.encRes := rfl
@[simp] theorem Regs.setKeyHi_saltNum (r : Regs) (v : Word) : (r.setKeyHi v).saltNum = r.saltNum := rfl
@[simp] theorem Regs.setKeyHi_saltCh (r : Regs) (v : Word) : (r.setKeyHi v).saltCh = r.saltCh := rfl
@[simp] theorem Regs.setKeyHi_keyLo (r : Regs) (v : Word) : (r.setKeyHi v).keyLo = r.keyLo := rfl
@[simp] theorem Regs.setKeyHi_keyHi (r : Regs) (v : Word) : (r.setKeyHi v).keyHi = v := rfl
@[simp] theorem Regs.setKeyHi_digLo (r : Regs) (v : Word) : (r.setKeyHi v).digLo = r.digLo := rfl
@[simp] theorem Regs.setKeyHi_digHi (r : Regs) (v : Word) : (r.setKeyHi v).digHi = r.digHi := rfl
@[simp] theorem Regs.setKeyHi_outW0 (r : Regs) (v : Word) : (r.setKeyHi v).outW0 = r.outW0 := rfl
@[simp] theorem Regs.setKeyHi_outW1 (r : Regs) (v : Word) : (r.setKeyHi v).outW1 = r.outW1 := rfl
@[simp] theorem Regs.setKeyHi_outW2 (r : Regs) (v : Word) : (r.setKeyHi v).outW2 = r.outW2 := rfl
@[simp] theorem Regs.setKeyHi_outW3 (r : Regs) (v : Word) : (r.setKeyHi v).outW3 = r.outW3 := rfl

/-! Regs.setDigLo -/

@[simp] theorem Regs.setDigLo_ok (r : Regs) (v : Word) : (r.setDigLo v).ok = r.ok := rfl
@[simp] theorem Regs.setDigLo_code (r : Regs) (v : Word) : (r.setDigLo v).code = r.code := rfl
@[simp] theorem Regs.setDigLo_args (r : Regs) (v : Word) : (r.setDigLo v).args = r.args := rfl
@[simp] theorem Regs.setDigLo_passLen (r : Regs) (v : Word) : (r.setDigLo v).passLen = r.passLen := rfl
@[simp] theorem Regs.setDigLo_saltLen (r : Regs) (v : Word) : (r.setDigLo v).saltLen = r.saltLen := rfl
@[simp] theorem Regs.setDigLo_ctxSize (r : Regs) (v : Word) : (r.setDigLo v).ctxSize = r.ctxSize := rfl
@[simp] theorem Regs.setDigLo_encArg (r : Regs) (v : Word) : (r.setDigLo v).encArg = r.encArg := rfl
@[simp] theorem Regs.setDigLo_encRes (r : Regs) (v : Word) : (r.setDigLo v).encRes = r.encRes := rfl
@[simp] theorem Regs.setDigLo_saltNum (r : Regs) (v : Word) : (r.setDigLo v).saltNum = r.saltNum := rfl
@[simp] theorem Regs.setDigLo_saltCh (r : Regs) (v : Word) : (r.setDigLo v).saltCh = r.saltCh := rfl
@[simp] theorem Regs.setDigLo_keyLo (r : Regs) (v : Word) : (r.setDigLo v).keyLo = r.keyLo := rfl
@[simp] theorem Regs.setDigLo_keyHi (r : Regs) (v : Word) : (r.setDigLo v).keyHi = r.keyHi := rfl
@[simp] theorem Regs.setDigLo_digLo (r : Regs) (v : Word) : (r.setDigLo v).digLo = v := rfl
@[simp] theorem Regs.setDigLo_digHi (r : Regs) (v : Word) : (r.setDigLo v).digHi = r.digHi := rfl
@[simp] theorem Regs.setDigLo_outW0 (r : Regs) (v : Word) : (r.setDigLo v).outW0 = r.outW0 := rfl
@[simp] theorem Regs.setDigLo_outW1 (r : Regs) (v : Word) : (r.setDigLo v).outW1 = r.outW1 := rfl
@[simp] theorem Regs.setDigLo_outW2 (r : Regs) (v : Word) : (r.setDigLo v).outW2 = r.outW2 := rfl
@[simp] theorem Regs.setDigLo_outW3 (r : Regs) (v : Word) : (r.setDigLo v).outW3 = r.outW3 := rfl

/-! Regs.setDigHi -/

@[simp] theorem Regs.setDigHi_ok (r : Regs) (v : Word) : (r.setDigHi v).ok = r.ok := rfl
@[simp] theorem Regs.setDigHi_code (r : Regs) (v : Word) : (r.setDigHi v).code = r.code := rfl
@[simp] theorem Regs.setDigHi_args (r : Regs) (v : Word) : (r.setDigHi v).args = r.args := rfl
@[simp] theorem Regs.setDigHi_passLen (r : Regs) (v : Word) : (r.setDigHi v).passLen = r.passLen := rfl
@[simp] theorem Regs.setDigHi_saltLen (r : Regs) (v : Word) : (r.setDigHi v).saltLen = r.saltLen := rfl
@[simp] theorem Regs.setDigHi_ctxSize (r : Regs) (v : Word) : (r.setDigHi v).ctxSize = r.ctxSize := rfl
@[simp] theorem Regs.setDigHi_encArg (r : Regs) (v : Word) : (r.setDigHi v).encArg = r.encArg := rfl
@[simp] theorem Regs.setDigHi_encRes (r : Regs) (v : Word) : (r.setDigHi v).encRes = r.encRes := rfl
@[simp] theorem Regs.setDigHi_saltNum (r : Regs) (v : Word) : (r.setDigHi v).saltNum = r.saltNum := rfl
@[simp] theorem Regs.setDigHi_saltCh (r : Regs) (v : Word) : (r.setDigHi v).saltCh = r.saltCh := rfl
@[simp] theorem Regs.setDigHi_keyLo (r : Regs) (v : Word) : (r.setDigHi v).keyLo = r.keyLo := rfl
@[simp] theorem Regs.setDigHi_keyHi (r : Regs) (v : Word) : (r.setDigHi v).keyHi = r.keyHi := rfl
@[simp] theorem Regs.setDigHi_digLo (r : Regs) (v : Word) : (r.setDigHi v).digLo = r.digLo := rfl
@[simp] theorem Regs.setDigHi_digHi (r : Regs) (v : Word) : (r.setDigHi v).digHi = v := rfl
@[simp] theorem Regs.setDigHi_outW0 (r : Regs) (v : Word) : (r.setDigHi v).outW0 = r.outW0 := rfl
@[simp] theorem Regs.setDigHi_outW1 (r : Regs) (v : Word) : (r.setDigHi v).outW1 = r.outW1 := rfl
@[simp] theorem Regs.setDigHi_outW2 (r : Regs) (v : Word) : (r.setDigHi v).outW2 = r.outW2 := rfl
@[simp] theorem Regs.setDigHi_outW3 (r : Regs) (v : Word) : (r.setDigHi v).outW3 = r.outW3 := rfl

end Sys2Proof.Machine
end

