-- ==== Sys2Proof/Laws/Memory.lean ====
section
/-! SUPPORT. What storage holds after each memory operation, and that every operation keeps the canonical form. -/

namespace Sys2Proof.Machine

/-! ## Lookup after an update -/

theorem Memory.find_insert (m : Memory) (a : Nat) (v : Byte) (b : Nat) :
    Memory.find (Memory.insert m a v) b = if a = b then some v else Memory.find m b := by
  induction m with
  | nil => simp [Memory.insert, Memory.find]
  | cons x rest ih =>
    obtain ⟨c, w⟩ := x
    simp only [Memory.insert]
    split
    · simp only [Memory.find, ih]
      split
      · rw [if_neg (by omega)]
      · rfl
    · split
      · rename_i h; subst h
        simp only [Memory.find]
        split <;> rfl
      · simp [Memory.find]

theorem Memory.find_filter (m : Memory) (p : Nat → Bool) (b : Nat) :
    Memory.find (m.filter (fun cell => p cell.1)) b = if p b then Memory.find m b else none := by
  induction m with
  | nil => simp [Memory.find]
  | cons x rest ih =>
    obtain ⟨c, w⟩ := x
    by_cases hc : p c = true
    · simp only [List.filter_cons, hc, if_true, Memory.find, ih]
      by_cases hb : c = b
      · subst hb; simp [hc]
      · simp [hb]
    · simp only [List.filter_cons, hc, Bool.false_eq_true, if_false, Memory.find, ih]
      by_cases hb : c = b
      · subst hb; simp [hc]
      · simp [hb]

theorem Memory.find_append (m n : Memory) (b : Nat) :
    Memory.find (m ++ n) b = (Memory.find m b).or (Memory.find n b) := by
  induction m with
  | nil => simp [Memory.find]
  | cons x rest ih =>
    obtain ⟨c, w⟩ := x
    simp only [List.cons_append, Memory.find, ih]
    split <;> simp

theorem Memory.find_map (l : List Nat) (v : Byte) (b : Nat) :
    Memory.find (l.map (fun a => (a, v))) b = if b ∈ l then some v else none := by
  induction l with
  | nil => simp [Memory.find]
  | cons c rest ih =>
    simp only [List.map_cons, Memory.find, ih, List.mem_cons]
    by_cases h : c = b
    · simp [h]
    · simp [h, Ne.symm h]

theorem Memory.find_block (lo n : Nat) (v : Byte) (b : Nat) :
    Memory.find (Memory.block lo n v) b =
      if (lo ≤ b ∧ b < lo + n) ∧ Memory.known b ≠ some v then some v else none := by
  simp [Memory.block, Memory.find_map, List.mem_filter, List.mem_range'_1]

theorem Memory.find_set_getD (m : Memory) (a : Nat) (v : Byte) (b e : Nat) :
    (Memory.find (Memory.set m a v) b).getD (Memory.unlisted e b) =
      if a = b then v else (Memory.find m b).getD (Memory.unlisted e b) := by
  unfold Memory.set
  split
  · rename_i h
    rw [Memory.find_filter m (fun c => c != a)]
    by_cases hb : a = b
    · subst hb; simp [Memory.unlisted, h]
    · simp [hb, Ne.symm hb]
  · rw [Memory.find_insert]
    split <;> simp

theorem Memory.find_fill_getD (m : Memory) (lo n : Nat) (v : Byte) (b e : Nat) :
    (Memory.find (Memory.fill m lo n v) b).getD (Memory.unlisted e b) =
      if lo ≤ b ∧ b < lo + n then v else (Memory.find m b).getD (Memory.unlisted e b) := by
  unfold Memory.fill
  rw [Memory.find_append, Memory.find_append, Memory.find_filter m (fun c => decide (c < lo)),
    Memory.find_filter m (fun c => decide (lo + n ≤ c)), Memory.find_block]
  by_cases h1 : b < lo
  · simp [h1, show ¬ lo ≤ b by omega, show ¬ lo + n ≤ b by omega]
  · by_cases h2 : b < lo + n
    · have h3 : ¬ lo + n ≤ b := by omega
      by_cases hk : Memory.known b = some v
      · simp [h1, h2, h3, hk, Memory.unlisted, show lo ≤ b by omega]
      · simp [h1, h2, hk, show lo ≤ b by omega]
    · simp [h1, h2, show lo + n ≤ b by omega]

/-! ## The byte a state holds after an update -/

@[simp] theorem State.byteAt_setRegs (s : State) (r : Regs) (a : Nat) : (s.setRegs r).byteAt a = s.byteAt a := by cases s; rfl
@[simp] theorem State.byteAt_setHidden (s : State) (d : Datapath) (a : Nat) : (s.setHidden d).byteAt a = s.byteAt a := by cases s; rfl
@[simp] theorem State.byteAt_countDraw (s : State) (a : Nat) : s.countDraw.byteAt a = s.byteAt a := by cases s; rfl
@[simp] theorem State.byteAt_complete (s : State) (es : List BusEvent) (p : Reply) (a : Nat) :
    (s.complete es p).byteAt a = s.byteAt a := by cases s; rfl

/-- Read after write of one byte. -/
theorem State.byteAt_setByte (s : State) (a : Nat) (v : Byte) (b : Nat) :
    (s.setByte a v).byteAt b = if a = b then v else s.byteAt b := by
  simp only [State.byteAt, State.setByte, State.setMem_mem, State.setMem_epoch, Memory.find_set_getD]

/-- Read after a fill. -/
theorem State.byteAt_fillBytes (s : State) (lo n : Nat) (v : Byte) (b : Nat) :
    (s.fillBytes lo n v).byteAt b = if lo ≤ b ∧ b < lo + n then v else s.byteAt b := by
  simp only [State.byteAt, State.fillBytes, State.setMem_mem, State.setMem_epoch, Memory.find_fill_getD]

/-- A list of bytes is written one at a time. -/
theorem State.writeBytes_cons (s : State) (a : Nat) (b : Byte) (bs : List Byte) :
    s.writeBytes a (b :: bs) = (s.setByte a b).writeBytes (a + 1) bs := rfl

@[simp] theorem State.writeBytes_nil (s : State) (a : Nat) : s.writeBytes a [] = s := rfl

/-- Read after a list of bytes was written. -/
theorem State.byteAt_writeBytes (s : State) (a : Nat) (bs : List Byte) (b : Nat) :
    (s.writeBytes a bs).byteAt b =
      if a ≤ b ∧ b < a + bs.length then bs.getD (b - a) 0#8 else s.byteAt b := by
  induction bs generalizing s a with
  | nil => simp
  | cons x xs ih =>
    rw [State.writeBytes_cons, ih, State.byteAt_setByte]
    simp only [List.length_cons]
    by_cases h0 : a = b
    · subst h0
      rw [if_neg (by omega), if_pos rfl, if_pos (by omega)]
      simp
    · rw [if_neg h0]
      by_cases h : a + 1 ≤ b ∧ b < a + 1 + xs.length
      · rw [if_pos h, if_pos (by omega), show b - a = (b - (a + 1)) + 1 by omega]
        simp
      · rw [if_neg h, if_neg (by omega)]

/-- Outside the bytes of a little-endian write nothing changes. -/
theorem State.byteAt_writeLE_of_outside (s : State) (a n : Nat) (v : Word) (b : Nat) (h : b < a ∨ a + n ≤ b) :
    (s.writeLE a n v).byteAt b = s.byteAt b := by
  unfold State.writeLE
  rw [State.byteAt_writeBytes, if_neg]
  simp [leBytes]; omega

/-- The bytes of a little-endian write are the value's, low byte first (20_memory.md R67). -/
theorem State.byteAt_writeLE (s : State) (a n : Nat) (v : Word) (k : Nat) (h : k < n) :
    (s.writeLE a n v).byteAt (a + k) = v.extractLsb' (8 * k) 8 := by
  unfold State.writeLE
  rw [State.byteAt_writeBytes, if_pos (by simp [leBytes]; omega)]
  simp [leBytes, h]

/-- A little-endian read has the bytes it reads, low byte first, and 0 above them (20_memory.md R67). -/
theorem State.byte_readLE (s : State) (a n k : Nat) (hn : n ≤ 4) (hk : k < 4) :
    (s.readLE a n).extractLsb' (8 * k) 8 = if k < n then s.byteAt (a + k) else 0#8 := by
  apply BitVec.eq_of_getLsbD_eq
  intro i hi
  simp only [State.readLE, leWord]
  have hn' : n = 0 ∨ n = 1 ∨ n = 2 ∨ n = 3 ∨ n = 4 := by omega
  have hk' : k = 0 ∨ k = 1 ∨ k = 2 ∨ k = 3 := by omega
  rcases hn' with rfl | rfl | rfl | rfl | rfl <;> rcases hk' with rfl | rfl | rfl | rfl <;>
    simp [List.range_succ, hi] <;> intros <;> first | omega | grind

/-- Reading back what was just written answers the low bytes of the value (20_memory.md R67, R73). -/
theorem State.readLE_writeLE (s : State) (a n : Nat) (v : Word) (hn : n ≤ 4) :
    (s.writeLE a n v).readLE a n = BitVec.ofNat 32 (v.toNat % 2 ^ (8 * n)) := by
  apply BitVec.eq_of_getLsbD_eq
  intro i hi
  have h := congrArg (fun x => x.getLsbD (i % 8)) (State.byte_readLE (s.writeLE a n v) a n (i / 8) hn (by omega))
  simp only [BitVec.getLsbD_extractLsb', show i % 8 < 8 by omega, decide_true, Bool.true_and,
    show 8 * (i / 8) + i % 8 = i by omega] at h
  rw [h, BitVec.getLsbD_ofNat, Nat.testBit_mod_two_pow]
  split
  · rename_i hk
    rw [State.byteAt_writeLE _ _ _ _ _ hk]
    rw [BitVec.getLsbD_extractLsb', show 8 * (i / 8) + i % 8 = i by omega]
    simp [show i % 8 < 8 by omega, hi, show i < 8 * n by omega, BitVec.getLsbD]
  · simp [show ¬ i < 8 * n by omega]

/-! ## What a memory update leaves alone

These are proved by cases and not by rfl: simp then builds a proof from them, and the kernel never compares two memories by
running them. -/

@[simp] theorem State.setByte_regs (s : State) (a : Nat) (v : Byte) :
    (s.setByte a v).regs = s.regs := by cases s; rfl
@[simp] theorem State.setByte_cfg (s : State) (a : Nat) (v : Byte) :
    (s.setByte a v).cfg = s.cfg := by cases s; rfl
@[simp] theorem State.setByte_hidden (s : State) (a : Nat) (v : Byte) :
    (s.setByte a v).hidden = s.hidden := by cases s; rfl
@[simp] theorem State.setByte_epoch (s : State) (a : Nat) (v : Byte) :
    (s.setByte a v).epoch = s.epoch := by cases s; rfl
@[simp] theorem State.setByte_allocDraws (s : State) (a : Nat) (v : Byte) :
    (s.setByte a v).allocDraws = s.allocDraws := by cases s; rfl
@[simp] theorem State.setByte_bus (s : State) (a : Nat) (v : Byte) :
    (s.setByte a v).bus = s.bus := by cases s; rfl
@[simp] theorem State.setByte_reply (s : State) (a : Nat) (v : Byte) :
    (s.setByte a v).reply = s.reply := by cases s; rfl
@[simp] theorem State.fillBytes_regs (s : State) (lo n : Nat) (v : Byte) :
    (s.fillBytes lo n v).regs = s.regs := by cases s; rfl
@[simp] theorem State.fillBytes_cfg (s : State) (lo n : Nat) (v : Byte) :
    (s.fillBytes lo n v).cfg = s.cfg := by cases s; rfl
@[simp] theorem State.fillBytes_hidden (s : State) (lo n : Nat) (v : Byte) :
    (s.fillBytes lo n v).hidden = s.hidden := by cases s; rfl
@[simp] theorem State.fillBytes_epoch (s : State) (lo n : Nat) (v : Byte) :
    (s.fillBytes lo n v).epoch = s.epoch := by cases s; rfl
@[simp] theorem State.fillBytes_allocDraws (s : State) (lo n : Nat) (v : Byte) :
    (s.fillBytes lo n v).allocDraws = s.allocDraws := by cases s; rfl
@[simp] theorem State.fillBytes_bus (s : State) (lo n : Nat) (v : Byte) :
    (s.fillBytes lo n v).bus = s.bus := by cases s; rfl
@[simp] theorem State.fillBytes_reply (s : State) (lo n : Nat) (v : Byte) :
    (s.fillBytes lo n v).reply = s.reply := by cases s; rfl
@[simp] theorem State.writeBytes_regs (s : State) (a : Nat) (bs : List Byte) :
    (s.writeBytes a bs).regs = s.regs := by cases s; rfl
@[simp] theorem State.writeBytes_cfg (s : State) (a : Nat) (bs : List Byte) :
    (s.writeBytes a bs).cfg = s.cfg := by cases s; rfl
@[simp] theorem State.writeBytes_hidden (s : State) (a : Nat) (bs : List Byte) :
    (s.writeBytes a bs).hidden = s.hidden := by cases s; rfl
@[simp] theorem State.writeBytes_epoch (s : State) (a : Nat) (bs : List Byte) :
    (s.writeBytes a bs).epoch = s.epoch := by cases s; rfl
@[simp] theorem State.writeBytes_allocDraws (s : State) (a : Nat) (bs : List Byte) :
    (s.writeBytes a bs).allocDraws = s.allocDraws := by cases s; rfl
@[simp] theorem State.writeBytes_bus (s : State) (a : Nat) (bs : List Byte) :
    (s.writeBytes a bs).bus = s.bus := by cases s; rfl
@[simp] theorem State.writeBytes_reply (s : State) (a : Nat) (bs : List Byte) :
    (s.writeBytes a bs).reply = s.reply := by cases s; rfl
@[simp] theorem State.writeLE_regs (s : State) (a n : Nat) (v : Word) :
    (s.writeLE a n v).regs = s.regs := by cases s; rfl
@[simp] theorem State.writeLE_cfg (s : State) (a n : Nat) (v : Word) :
    (s.writeLE a n v).cfg = s.cfg := by cases s; rfl
@[simp] theorem State.writeLE_hidden (s : State) (a n : Nat) (v : Word) :
    (s.writeLE a n v).hidden = s.hidden := by cases s; rfl
@[simp] theorem State.writeLE_epoch (s : State) (a n : Nat) (v : Word) :
    (s.writeLE a n v).epoch = s.epoch := by cases s; rfl
@[simp] theorem State.writeLE_allocDraws (s : State) (a n : Nat) (v : Word) :
    (s.writeLE a n v).allocDraws = s.allocDraws := by cases s; rfl
@[simp] theorem State.writeLE_bus (s : State) (a n : Nat) (v : Word) :
    (s.writeLE a n v).bus = s.bus := by cases s; rfl
@[simp] theorem State.writeLE_reply (s : State) (a n : Nat) (v : Word) :
    (s.writeLE a n v).reply = s.reply := by cases s; rfl

/-! ## The canonical form is kept -/

/-- Rising offsets, as a pairwise relation. -/
theorem Memory.rising_iff (m : Memory) : Memory.rising m = true ↔ m.Pairwise (fun x y => x.1 < y.1) := by
  induction m with
  | nil => simp [Memory.rising]
  | cons x rest ih =>
    cases rest with
    | nil => simp [Memory.rising]
    | cons y rest' =>
      rw [List.pairwise_cons, Memory.rising, Bool.and_eq_true, ih, decide_eq_true_iff]
      refine ⟨fun ⟨h1, h2⟩ => ⟨fun z hz => ?_, h2⟩, fun ⟨h1, h2⟩ => ⟨h1 y (List.mem_cons_self ..), h2⟩⟩
      rcases List.mem_cons.1 hz with rfl | hz
      · exact h1
      · exact Nat.lt_trans h1 ((List.pairwise_cons.1 h2).1 z hz)

/-- The canonical form as two plain facts. -/
theorem Memory.wf_iff (m : Memory) : Memory.wf m = true ↔
    m.Pairwise (fun x y => x.1 < y.1) ∧ ∀ cell ∈ m, Memory.known cell.1 ≠ some cell.2 := by
  simp only [Memory.wf, Bool.and_eq_true, Memory.rising_iff, List.all_eq_true, bne_iff_ne]

/-- A cell of an insertion is the new one or an old one. -/
theorem Memory.mem_insert {m : Memory} {a : Nat} {v : Byte} {x : Host.Cell} (h : x ∈ Memory.insert m a v) :
    x = (a, v) ∨ x ∈ m := by
  induction m with
  | nil => simpa [Memory.insert] using h
  | cons y rest ih =>
    obtain ⟨c, w⟩ := y
    simp only [Memory.insert] at h
    split at h
    · rcases List.mem_cons.1 h with h | h
      · exact .inr (by simp [h])
      · rcases ih h with h | h
        · exact .inl h
        · exact .inr (by simp [h])
    · split at h
      · rcases List.mem_cons.1 h with h | h
        · exact .inl h
        · exact .inr (by simp [h])
      · rcases List.mem_cons.1 h with h | h
        · exact .inl h
        · exact .inr h

theorem Memory.insert_pairwise {m : Memory} (a : Nat) (v : Byte) (h : m.Pairwise (fun x y => x.1 < y.1)) :
    (Memory.insert m a v).Pairwise (fun x y => x.1 < y.1) := by
  induction m with
  | nil => simp [Memory.insert]
  | cons y rest ih =>
    obtain ⟨c, w⟩ := y
    obtain ⟨h1, h2⟩ := List.pairwise_cons.1 h
    simp only [Memory.insert]
    split
    · rename_i hc
      refine List.pairwise_cons.2 ⟨fun z hz => ?_, ih h2⟩
      rcases Memory.mem_insert hz with rfl | hz
      · exact hc
      · exact h1 z hz
    · split
      · rename_i hc; subst hc
        exact List.pairwise_cons.2 ⟨h1, h2⟩
      · rename_i hn hne
        refine List.pairwise_cons.2 ⟨fun z hz => ?_, h⟩
        rcases List.mem_cons.1 hz with rfl | hz
        · simp only; omega
        · have := h1 z hz; simp only at this ⊢; omega

/-- Writing one byte keeps the canonical form. -/
theorem Memory.wf_set {m : Memory} (a : Nat) (v : Byte) (h : Memory.wf m = true) :
    Memory.wf (Memory.set m a v) = true := by
  rw [Memory.wf_iff] at h ⊢
  unfold Memory.set
  split
  · exact ⟨h.1.filter _, fun c hc => h.2 c (List.mem_filter.1 hc).1⟩
  · rename_i hk
    refine ⟨Memory.insert_pairwise a v h.1, fun c hc => ?_⟩
    rcases Memory.mem_insert hc with rfl | hc
    · exact hk
    · exact h.2 c hc

/-- A cell of a block lies in its range, holds its value and is canonical. -/
theorem Memory.mem_block {lo n : Nat} {v : Byte} {x : Host.Cell} :
    x ∈ Memory.block lo n v ↔ (lo ≤ x.1 ∧ x.1 < lo + n) ∧ x.2 = v ∧ Memory.known x.1 ≠ some v := by
  obtain ⟨c, w⟩ := x
  simp only [Memory.block, List.mem_map, List.mem_filter, List.mem_range'_1, bne_iff_ne, Prod.mk.injEq]
  constructor
  · rintro ⟨b, ⟨h1, h2⟩, rfl, rfl⟩; exact ⟨h1, rfl, h2⟩
  · rintro ⟨h1, rfl, h2⟩; exact ⟨c, ⟨h1, h2⟩, rfl, rfl⟩

theorem Memory.block_pairwise (lo n : Nat) (v : Byte) : (Memory.block lo n v).Pairwise (fun x y => x.1 < y.1) := by
  unfold Memory.block
  rw [List.pairwise_map]
  exact (List.pairwise_lt_range' (s := lo) (n := n)).filter _

/-- A fill keeps the canonical form. -/
theorem Memory.wf_fill {m : Memory} (lo n : Nat) (v : Byte) (h : Memory.wf m = true) :
    Memory.wf (Memory.fill m lo n v) = true := by
  rw [Memory.wf_iff] at h ⊢
  unfold Memory.fill
  refine ⟨?_, fun c hc => ?_⟩
  · rw [List.pairwise_append, List.pairwise_append]
    refine ⟨h.1.filter _, ⟨Memory.block_pairwise lo n v, h.1.filter _, ?_⟩, ?_⟩
    · intro x hx y hy
      have := (Memory.mem_block.1 hx).1
      have := (List.mem_filter.1 hy).2
      simp only [decide_eq_true_iff] at this
      omega
    · intro x hx y hy
      have hx := (List.mem_filter.1 hx).2
      simp only [decide_eq_true_iff] at hx
      rcases List.mem_append.1 hy with hy | hy
      · have := (Memory.mem_block.1 hy).1; omega
      · have := (List.mem_filter.1 hy).2
        simp only [decide_eq_true_iff] at this
        omega
  · rcases List.mem_append.1 hc with hc | hc
    · exact h.2 c (List.mem_filter.1 hc).1
    · rcases List.mem_append.1 hc with hc | hc
      · obtain ⟨-, h2, h3⟩ := Memory.mem_block.1 hc
        rw [h2]; exact h3
      · exact h.2 c (List.mem_filter.1 hc).1

/-- Writing a list of bytes keeps the canonical form. -/
theorem Memory.wf_write {m : Memory} (a : Nat) (bs : List Byte) (h : Memory.wf m = true) :
    Memory.wf (Memory.write m a bs) = true := by
  induction bs generalizing m a with
  | nil => exact h
  | cons b bs ih => exact ih (a + 1) (Memory.wf_set a b h)

/-! ## Which offsets an update lists -/

theorem Memory.mem_set {m : Memory} {a : Nat} {v : Byte} {x : Host.Cell} (h : x ∈ Memory.set m a v) :
    x.1 = a ∨ x ∈ m := by
  unfold Memory.set at h
  split at h
  · exact .inr (List.mem_filter.1 h).1
  · rcases Memory.mem_insert h with rfl | h
    · exact .inl rfl
    · exact .inr h

theorem Memory.mem_fill {m : Memory} {lo n : Nat} {v : Byte} {x : Host.Cell} (h : x ∈ Memory.fill m lo n v) :
    (lo ≤ x.1 ∧ x.1 < lo + n) ∨ x ∈ m := by
  unfold Memory.fill at h
  rcases List.mem_append.1 h with h | h
  · exact .inr (List.mem_filter.1 h).1
  · rcases List.mem_append.1 h with h | h
    · exact .inl (Memory.mem_block.1 h).1
    · exact .inr (List.mem_filter.1 h).1

theorem Memory.mem_write {m : Memory} {a : Nat} {bs : List Byte} {x : Host.Cell} (h : x ∈ Memory.write m a bs) :
    (a ≤ x.1 ∧ x.1 < a + bs.length) ∨ x ∈ m := by
  induction bs generalizing m a with
  | nil => exact .inr h
  | cons b bs ih =>
    simp only [List.length_cons]
    rcases ih h with h | h
    · exact .inl (by omega)
    · rcases Memory.mem_set h with h | h
      · exact .inl (by omega)
      · exact .inr h

end Sys2Proof.Machine
end

