-- ==== Sys2Proof/Laws/Ops.lean ====
section
/-! SUPPORT. What each shared operation does: the lifecycle of a slot, the epilogues, and the phases of HASH. -/

namespace Sys2Proof.Machine

/-! ## The lifecycle of a slot -/

@[simp] theorem State.ensureInitialized_regs (s : State) (c : Nat) :
    (s.ensureInitialized c).regs = s.regs := by
  unfold State.ensureInitialized; split <;> simp
@[simp] theorem State.ensureInitialized_cfg (s : State) (c : Nat) :
    (s.ensureInitialized c).cfg = s.cfg := by
  unfold State.ensureInitialized; split <;> simp
@[simp] theorem State.ensureInitialized_hidden (s : State) (c : Nat) :
    (s.ensureInitialized c).hidden = s.hidden := by
  unfold State.ensureInitialized; split <;> simp
@[simp] theorem State.ensureInitialized_epoch (s : State) (c : Nat) :
    (s.ensureInitialized c).epoch = s.epoch := by
  unfold State.ensureInitialized; split <;> simp
@[simp] theorem State.ensureInitialized_allocDraws (s : State) (c : Nat) :
    (s.ensureInitialized c).allocDraws = s.allocDraws := by
  unfold State.ensureInitialized; split <;> simp
@[simp] theorem State.ensureInitialized_bus (s : State) (c : Nat) :
    (s.ensureInitialized c).bus = s.bus := by
  unfold State.ensureInitialized; split <;> simp
@[simp] theorem State.ensureInitialized_reply (s : State) (c : Nat) :
    (s.ensureInitialized c).reply = s.reply := by
  unfold State.ensureInitialized; split <;> simp

/-- EnsureInitialized, byte by byte (44_hash_context.md R223). -/
theorem State.byteAt_ensureInitialized (s : State) (c b : Nat) :
    (s.ensureInitialized c).byteAt b =
      if s.initWord c = 0#32 ∧ slotAt c 0 ≤ b ∧ b < slotAt c 0 + 33280 then
        (if b = initAt c then 1#8 else 0#8)
      else s.byteAt b := by
  unfold State.ensureInitialized
  by_cases h : s.initWord c = 0#32
  · rw [if_pos h]
    by_cases hi : initAt c ≤ b ∧ b < initAt c + 4
    · obtain ⟨k, rfl⟩ : ∃ k, b = initAt c + k := ⟨b - initAt c, by omega⟩
      have hk : k < 4 := by omega
      rw [State.byteAt_writeLE _ _ _ _ _ hk, if_pos ⟨h, by simp only [initAt, slotAt]; omega⟩]
      have : k = 0 ∨ k = 1 ∨ k = 2 ∨ k = 3 := by omega
      rcases this with rfl | rfl | rfl | rfl <;> simp
    · rw [State.byteAt_writeLE_of_outside _ _ _ _ _ (by omega), State.byteAt_fillBytes]
      simp only [Config.ctxLayoutBytes, h, true_and]
      split
      · rw [if_neg (by omega)]
      · rfl
  · rw [if_neg h, if_neg (fun hh => h hh.1)]

/-! ## Scrub and the epilogues -/

@[simp] theorem State.scrub_regs (s : State) (c : Nat) : (s.scrub c).regs = s.regs := State.fillBytes_regs ..
@[simp] theorem State.scrub_cfg (s : State) (c : Nat) : (s.scrub c).cfg = s.cfg := State.fillBytes_cfg ..
@[simp] theorem State.scrub_epoch (s : State) (c : Nat) : (s.scrub c).epoch = s.epoch := State.fillBytes_epoch ..
@[simp] theorem State.scrub_allocDraws (s : State) (c : Nat) : (s.scrub c).allocDraws = s.allocDraws := State.fillBytes_allocDraws ..
@[simp] theorem State.scrub_bus (s : State) (c : Nat) : (s.scrub c).bus = s.bus := State.fillBytes_bus ..
@[simp] theorem State.scrub_reply (s : State) (c : Nat) : (s.scrub c).reply = s.reply := State.fillBytes_reply ..
@[simp] theorem State.scrub_hidden (s : State) (c : Nat) : (s.scrub c).hidden = s.hidden := State.fillBytes_hidden ..

/-- Scrub, byte by byte (44_hash_context.md R228). -/
theorem State.byteAt_scrub (s : State) (c b : Nat) :
    (s.scrub c).byteAt b = if scratchAt c 0 ≤ b ∧ b < scratchAt c 0 + 32768 then 0#8 else s.byteAt b :=
  State.byteAt_fillBytes s _ _ _ b

/-- The success epilogue as a record (60_exceptions.md R263). -/
theorem State.successEpilogue_eq (s : State) :
    s.successEpilogue = { s with regs := { s.regs with ok := true, code := 0#4 }, hidden := Datapath.zero } := by cases s; rfl

/-- The failure epilogue without a slot as a record (60_exceptions.md R262). -/
theorem State.failureEpilogue_none (s : State) (e : ErrCode) :
    s.failureEpilogue e none =
      { s with regs := { s.regs with ok := false, code := e.value }, hidden := Datapath.zero } := by cases s; rfl

/-- The failure epilogue with a slot: the same after a scrub (60_exceptions.md R262). -/
theorem State.failureEpilogue_some (s : State) (e : ErrCode) (c : Nat) :
    s.failureEpilogue e (some c) = (s.scrub c).failureEpilogue e none := by cases s; rfl

@[simp] theorem State.byteAt_successEpilogue (s : State) (b : Nat) : s.successEpilogue.byteAt b = s.byteAt b := by cases s; rfl
@[simp] theorem State.byteAt_failureEpilogue_none (s : State) (e : ErrCode) (b : Nat) :
    (s.failureEpilogue e none).byteAt b = s.byteAt b := by cases s; rfl
@[simp] theorem State.byteAt_computeDigest (s : State) (k : Block) (salt : BitVec 12) (b : Nat) :
    (s.computeDigest k salt).byteAt b = s.byteAt b := by cases s; rfl
@[simp] theorem State.successEpilogue_mem (s : State) : s.successEpilogue.mem = s.mem := by cases s; rfl
@[simp] theorem State.failureEpilogue_none_mem (s : State) (e : ErrCode) : (s.failureEpilogue e none).mem = s.mem := by cases s; rfl

/-! ## Registers and storage do not meet -/

theorem State.fillBytes_setRegs (s : State) (r : Regs) (lo n : Nat) (v : Byte) :
    (s.setRegs r).fillBytes lo n v = (s.fillBytes lo n v).setRegs r := by
  simp only [State.fillBytes, State.setMem, State.setRegs]

theorem State.writeBytes_setRegs (s : State) (r : Regs) (a : Nat) (bs : List Byte) :
    (s.setRegs r).writeBytes a bs = (s.writeBytes a bs).setRegs r := by
  simp only [State.writeBytes, State.setMem, State.setRegs]

theorem State.scrub_setRegs (s : State) (r : Regs) (c : Nat) : (s.setRegs r).scrub c = (s.scrub c).setRegs r :=
  State.fillBytes_setRegs ..

/-- A word of storage depends on its bytes alone. -/
theorem State.readLE_congr {s t : State} {a n : Nat} (h : ∀ k, k < n → t.byteAt (a + k) = s.byteAt (a + k)) :
    t.readLE a n = s.readLE a n := by
  unfold State.readLE
  congr 1
  exact List.map_congr_left fun k hk => h k (List.mem_range.1 hk)

theorem State.initWord_setRegs (s : State) (r : Regs) (c : Nat) : (s.setRegs r).initWord c = s.initWord c :=
  State.readLE_congr fun _ _ => State.byteAt_setRegs ..

theorem State.ensureInitialized_setRegs (s : State) (r : Regs) (c : Nat) :
    (s.setRegs r).ensureInitialized c = (s.ensureInitialized c).setRegs r := by
  unfold State.ensureInitialized
  rw [State.initWord_setRegs]
  split
  · rw [State.fillBytes_setRegs, State.writeLE, State.writeBytes_setRegs, State.writeLE]
  · rfl

/-! ## HASH's validation reads only registers and the two buffers -/

theorem packKey_congr {f g : Nat → Byte} (h : ∀ i, i < 8 → f i = g i) : packKey f = packKey g := by
  simp only [packKey, Config.keyBytes, List.range_succ, List.range_zero, List.nil_append, List.cons_append,
    List.foldl_cons, List.foldl_nil, h 0 (by omega), h 1 (by omega), h 2 (by omega), h 3 (by omega), h 4 (by omega),
    h 5 (by omega), h 6 (by omega), h 7 (by omega)]

/-- The validation depends on ARGS, SALT_LEN, PASS_LEN and the bytes below the slots alone. -/
theorem State.hashInputs_congr {s t : State} (ha : t.regs.args = s.regs.args) (hs : t.regs.saltLen = s.regs.saltLen)
    (hp : t.regs.passLen = s.regs.passLen) (hb : ∀ b, b < 0x10000 → t.byteAt b = s.byteAt b) :
    t.hashInputs = s.hashInputs := by
  have h0 : t.saltByte 0 = s.saltByte 0 := hb _ (by simp [saltAt])
  have h1 : t.saltByte 1 = s.saltByte 1 := hb _ (by simp [saltAt])
  have hk : packKey t.keySource = packKey s.keySource := packKey_congr fun i hi => by
    simp only [State.keySource, State.passByte, hp, hb (passAt i) (by simp only [passAt]; omega)]
  have hpp : t.passPresent = s.passPresent := by rw [State.passPresent, ha, State.passPresent]
  have hsp : t.saltPresent = s.saltPresent := by rw [State.saltPresent, ha, State.saltPresent]
  have hd : t.saltDecode = s.saltDecode := by rw [State.saltDecode, hsp, hs, h0, h1, State.saltDecode]
  have hkd : t.keyDerive = s.keyDerive := by rw [State.keyDerive, hpp, hp, hk, State.keyDerive]
  rw [State.hashInputs, hpp, hsp, hd, hkd, State.hashInputs]

/-- The capacity check never fires (43_output_encoder.md R203). -/
theorem capacityCheck_ok : capacityCheck Config.outFieldBytes = .ok () := by decide

/-- The validation succeeds exactly when no cause of 60_exceptions.md R265 applies, and its value is then the decoded salt
and the key block. -/
theorem State.hashInputs_eq (s : State) : s.hashInputs =
    match s.firstHashError, decode6 (s.saltByte 0), decode6 (s.saltByte 1) with
    | none, some v0, some v1 =>
      .ok { salt := { salt := v1 ++ v0, ch0 := s.saltByte 0, ch1 := s.saltByte 1 }, key := packKey s.keySource }
    | some e, _, _ => .error e
    | none, _, _ => .error .invalidSalt := by
  unfold State.hashInputs State.firstHashError
  by_cases h1 : s.passPresent = false ∨ s.saltPresent = false
  · simp [h1]
  · rw [if_neg h1, if_neg h1]
    obtain ⟨hp, hs⟩ := not_or.1 h1
    unfold State.saltDecode
    rw [if_neg hs]
    by_cases h2 : 1 ≤ s.regs.saltLen.toNat ∧ s.saltByte 0 = 0x24#8
    · simp [h2]
    · rw [if_neg h2, if_neg h2]
      by_cases h3 : s.regs.saltLen.toNat < 2
      · simp [h3]
      · rw [if_neg h3]
        unfold saltOfChars State.keyDerive
        rw [if_neg hp]
        cases h4 : decode6 (s.saltByte 0) <;> cases h5 : decode6 (s.saltByte 1)
        all_goals simp only [reduceCtorEq, or_false, or_true, if_true, if_false, h3, Config.passMax]
        by_cases h6 : 512 ≤ s.regs.passLen.toNat
        · simp [h6]
        · simp [h6, saltNumber, capacityCheck_ok]

/-! ## HASH's prologue -/

/-- The state in which HASH validates: initialized, with the token written (44_hash_context.md R221). -/
abbrev State.prologue (s : State) (slot : Nat) : State := (s.ensureInitialized slot).writeFailureToken slot

theorem State.byteAt_ensureInitialized_low (s : State) (slot b : Nat) (h : b < 0x10000) :
    (s.ensureInitialized slot).byteAt b = s.byteAt b := by
  rw [State.byteAt_ensureInitialized, if_neg]
  simp only [slotAt]; omega

theorem State.tokenByte_ensureInitialized (s : State) (slot : Nat) :
    (s.ensureInitialized slot).tokenByte = s.tokenByte := by
  unfold State.tokenByte State.saltPresent State.saltByte
  rw [State.ensureInitialized_regs, State.byteAt_ensureInitialized_low s slot (saltAt 0) (by simp [saltAt])]

theorem State.prologue_eq (s : State) (slot : Nat) :
    s.prologue slot = (s.ensureInitialized slot).writeBytes (slotAt slot 0) s.failureToken := by
  rw [State.prologue, State.writeFailureToken, State.tokenByte_ensureInitialized, State.failureToken]

theorem State.hashInputs_prologue (s : State) (slot : Nat) : (s.prologue slot).hashInputs = s.hashInputs := by
  rw [State.prologue_eq]
  refine State.hashInputs_congr (by simp) (by simp) (by simp) fun b hb => ?_
  rw [State.byteAt_writeBytes, if_neg (by simp only [slotAt]; omega), State.byteAt_ensureInitialized_low s slot b hb]

/-! ## HASH on a resolved slot -/

/-- HASH on a resolved slot whose validation fails (44_hash_context.md R221, 60_exceptions.md R262). -/
theorem State.hashOn_error (s : State) (slot : Nat) (e : ErrCode) (h : s.firstHashError = some e) :
    s.OnlyStatus (s.hashOn slot) false e.value ∧ (s.hashOn slot).allocDraws = s.allocDraws ∧
    ∀ b, (s.hashOn slot).byteAt b = s.byteAfterHash slot s.failureToken b := by
  have hi : (s.prologue slot).hashInputs = .error e := by
    rw [State.hashInputs_prologue, State.hashInputs_eq, h]
  have ho : s.hashOn slot = ((s.prologue slot).scrub slot).failureEpilogue e none := by
    unfold State.hashOn
    simp only [hi, State.failureEpilogue_some]
  rw [ho, State.prologue_eq]
  refine ⟨⟨?_, ?_, ?_, ?_, ?_, ?_⟩, ?_, fun b => ?_⟩
  iterate 7 simp [State.failureEpilogue_none]
  rw [State.byteAt_failureEpilogue_none, State.byteAt_scrub, State.byteAt_writeBytes, State.byteAt_ensureInitialized]
  unfold State.byteAfterHash
  have hlen : s.failureToken.length = 3 := rfl
  rw [hlen]
  by_cases h1 : slotAt slot 0 ≤ b ∧ b < slotAt slot 0 + 3
  · rw [if_pos h1, if_neg (by simp only [scratchAt, slotAt] at h1 ⊢; omega), if_pos h1]
  · rw [if_neg h1, if_neg h1]

theorem outString_length (c0 c1 : Byte) (d : Block) : (outString c0 c1 d).length = 14 := by
  simp [outString, encode11, Config.outChars]

/-- HASH on a resolved slot whose validation succeeds (44_hash_context.md R221, R227). -/
theorem State.hashOn_ok (s : State) (slot : Nat) (v0 v1 : BitVec 6) (h : s.firstHashError = none)
    (h0 : decode6 (s.saltByte 0) = some v0) (h1 : decode6 (s.saltByte 1) = some v1) :
    s.OnlyStatus (s.hashOn slot) true 0#4 ∧ (s.hashOn slot).allocDraws = s.allocDraws ∧
    ∀ b, (s.hashOn slot).byteAt b = s.byteAfterHash slot
      (outString (s.saltByte 0) (s.saltByte 1) (Des.digest (packKey s.keySource) (v1 ++ v0))) b := by
  have hi : (s.prologue slot).hashInputs =
      .ok { salt := { salt := v1 ++ v0, ch0 := s.saltByte 0, ch1 := s.saltByte 1 }, key := packKey s.keySource } := by
    rw [State.hashInputs_prologue, State.hashInputs_eq, h, h0, h1]
  have hd : ∀ t : State, (t.computeDigest (packKey s.keySource) (v1 ++ v0)).hidden.digest =
      Des.digest (packKey s.keySource) (v1 ++ v0) := fun t => Datapath.run_digest _ _
  have ho : s.hashOn slot = ((((s.prologue slot).computeDigest (packKey s.keySource) (v1 ++ v0)).writeBytes
      (slotAt slot 0) (outString (s.saltByte 0) (s.saltByte 1) (Des.digest (packKey s.keySource) (v1 ++ v0)))).scrub
      slot).successEpilogue := by
    unfold State.hashOn
    simp only [hi, State.writeResult, hd]
  rw [ho, State.prologue_eq]
  refine ⟨⟨?_, ?_, ?_, ?_, ?_, ?_⟩, ?_, fun b => ?_⟩
  iterate 7 simp [State.successEpilogue_eq, State.computeDigest]
  rw [State.byteAt_successEpilogue, State.byteAt_scrub, State.byteAt_writeBytes, State.byteAt_computeDigest, State.byteAt_writeBytes,
    State.byteAt_ensureInitialized]
  unfold State.byteAfterHash
  have hlen : ∀ d, (outString (s.saltByte 0) (s.saltByte 1) d).length = 14 := fun d => outString_length _ _ d
  have hlen' : s.failureToken.length = 3 := rfl
  rw [hlen, hlen']
  by_cases h2 : slotAt slot 0 ≤ b ∧ b < slotAt slot 0 + 14
  · rw [if_pos h2, if_neg (by simp only [scratchAt, slotAt] at h2 ⊢; omega), if_pos h2]
  · rw [if_neg h2, if_neg h2, if_neg (show ¬(slotAt slot 0 ≤ b ∧ b < slotAt slot 0 + 3) by omega)]

/-! ## The component registers do not matter to HASH -/

theorem State.tokenByte_setRegs (s : State) (r : Regs) (ha : r.args = s.regs.args) (hs : r.saltLen = s.regs.saltLen) :
    (s.setRegs r).tokenByte = s.tokenByte := by
  have h1 : (s.setRegs r).saltPresent = s.saltPresent := by rw [State.saltPresent, State.setRegs_regs, ha, State.saltPresent]
  have h2 : (s.setRegs r).saltByte 0 = s.saltByte 0 := State.byteAt_setRegs ..
  rw [State.tokenByte, h1, h2, State.setRegs_regs, hs, State.tokenByte]

theorem State.prologue_setRegs (s : State) (r : Regs) (slot : Nat) (ha : r.args = s.regs.args)
    (hs : r.saltLen = s.regs.saltLen) : (s.setRegs r).prologue slot = (s.prologue slot).setRegs r := by
  rw [State.prologue_eq, State.prologue_eq, State.failureToken, State.failureToken, State.tokenByte_setRegs s r ha hs,
    State.ensureInitialized_setRegs, State.writeBytes_setRegs]

theorem State.computeDigest_setRegs (s : State) (r : Regs) (k : Block) (salt : BitVec 12) :
    (s.setRegs r).computeDigest k salt = (s.computeDigest k salt).setRegs r := by
  simp only [State.computeDigest, State.setHidden, State.setRegs]

theorem State.successEpilogue_setRegs (s : State) (r : Regs) :
    (s.setRegs r).successEpilogue = s.successEpilogue.setRegs (r.setStatus true 0#4) := by
  simp only [State.successEpilogue_eq, State.setRegs, Regs.setStatus]

theorem State.failureEpilogue_none_setRegs (s : State) (r : Regs) (e : ErrCode) :
    (s.setRegs r).failureEpilogue e none = (s.failureEpilogue e none).setRegs (r.setStatus false e.value) := by
  simp only [State.failureEpilogue_none, State.setRegs, Regs.setStatus]

theorem State.writeResult_setRegs (s : State) (r : Regs) (slot : Nat) (c0 c1 : Byte) :
    (s.setRegs r).writeResult slot c0 c1 = (s.writeResult slot c0 c1).setRegs r := by
  simp only [State.writeResult, State.writeBytes_setRegs, State.setRegs_hidden]

theorem State.hashOn_eq (s : State) (slot : Nat) : s.hashOn slot =
    match s.hashInputs with
    | .error e => ((s.prologue slot).scrub slot).failureEpilogue e none
    | .ok inp => ((((s.prologue slot).computeDigest inp.key inp.salt.salt).writeResult slot inp.salt.ch0
        inp.salt.ch1).scrub slot).successEpilogue := by
  have h := State.hashInputs_prologue s slot
  cases hi : s.hashInputs with
  | error e =>
    rw [hi] at h
    unfold State.hashOn
    simp only [h, State.failureEpilogue_some]
  | ok inp =>
    rw [hi] at h
    unfold State.hashOn
    simp only [h]

/-- HASH on a slot does the same from two register pages with equal ARGS, SALT_LEN and PASS_LEN (44_hash_context.md R229). -/
theorem State.hashOn_setRegs (s : State) (r : Regs) (slot : Nat) (ha : r.args = s.regs.args)
    (hs : r.saltLen = s.regs.saltLen) (hp : r.passLen = s.regs.passLen) :
    (s.setRegs r).hashOn slot =
      (s.hashOn slot).setRegs (r.setStatus (s.hashOn slot).regs.ok (s.hashOn slot).regs.code) := by
  have hi : (s.setRegs r).hashInputs = s.hashInputs :=
    State.hashInputs_congr ha hs hp fun b _ => State.byteAt_setRegs ..
  rw [State.hashOn_eq, State.hashOn_eq, hi, State.prologue_setRegs s r slot ha hs]
  cases s.hashInputs with
  | error e =>
    simp only [State.scrub_setRegs, State.failureEpilogue_none_setRegs]
    congr 1
  | ok inp =>
    simp only [State.computeDigest_setRegs, State.writeResult_setRegs, State.scrub_setRegs, State.successEpilogue_setRegs]
    congr 1

end Sys2Proof.Machine
end

