-- ==== Sys2Proof/Laws/Hash.lean ====
section
/-! SUPPORT. What a HASH command can do: it fails in context resolution, or it runs on the slot it resolved
(44_hash_context.md R221, R222). -/

namespace Sys2Proof.Machine

/-! ## Context resolution -/

/-- Counting the allocator draw changes the count alone. -/
theorem State.afterResolve_fields (s : State) (m : HashMode) (c : Nat) :
    (s.afterResolve m c).regs = s.regs ∧ (s.afterResolve m c).cfg = s.cfg ∧ (s.afterResolve m c).mem = s.mem ∧
    (s.afterResolve m c).epoch = s.epoch ∧ (s.afterResolve m c).bus = s.bus ∧
    (s.afterResolve m c).reply = s.reply ∧ (s.afterResolve m c).hidden = s.hidden := by
  unfold State.afterResolve
  split <;> exact ⟨rfl, rfl, rfl, rfl, rfl, rfl, rfl⟩

@[simp] theorem State.byteAt_afterResolve (s : State) (m : HashMode) (c b : Nat) :
    (s.afterResolve m c).byteAt b = s.byteAt b := by
  unfold State.afterResolve
  split
  · exact State.byteAt_countDraw ..
  · rfl

theorem State.firstHashError_afterResolve (s : State) (m : HashMode) (c : Nat) :
    (s.afterResolve m c).firstHashError = s.firstHashError := by
  unfold State.afterResolve
  split <;> rfl

theorem State.byteAfterHash_afterResolve (s : State) (m : HashMode) (c slot : Nat) (out : List Byte) (b : Nat) :
    (s.afterResolve m c).byteAfterHash slot out b = s.byteAfterHash slot out b := by
  unfold State.afterResolve
  split <;> rfl

/-- Resolution answers the slot that the command names (R222). -/
theorem State.resolveContext_slot {s : State} {m : HashMode} {c slot : Nat} (h : s.resolveContext m c = .ok slot) :
    slot = slotOf m c ∧ (1 ≤ s.cfg.nCtx → slot < s.cfg.nCtx) := by
  have hi : ∀ {a}, s.indexOk a = true → a < s.cfg.nCtx := by
    intro a ha
    unfold State.indexOk at ha
    simp at ha
    exact ha.2
  cases m <;> simp only [State.resolveContext] at h
  · cases h
    exact ⟨rfl, id⟩
  · split at h
    · rename_i hc
      injection h with h
      exact ⟨h.symm, fun _ => h ▸ hi hc⟩
    · cases h
  · split at h
    · rename_i hc
      split at h
      · cases h
      · injection h with h
        exact ⟨h.symm, fun _ => h ▸ hi hc⟩
    · cases h
  · split at h
    · rename_i hc
      split at h
      · injection h with h
        exact ⟨h.symm, fun _ => h ▸ hi hc⟩
      · cases h
    · cases h

/-! ## The command -/

/-- The four HASH constructors run the one operation. -/
theorem exec_hashOf (s : State) (m : HashMode) (c : Nat) : exec (hashOf m c) s = .next (s.hash m c) := by
  cases m <;> rfl

theorem State.hash_of_error {s : State} {m : HashMode} {c : Nat} {e : ErrCode} (h : s.resolveContext m c = .error e) :
    s.hash m c = (s.afterResolve m c).failureEpilogue e none := by
  simp only [State.hash, h]

theorem State.hash_of_ok {s : State} {m : HashMode} {c slot : Nat} (h : s.resolveContext m c = .ok slot) :
    s.hash m c = (s.afterResolve m c).hashOn slot := by
  simp only [State.hash, h]

/-- No cause of 60_exceptions.md R265 applies only where both salt characters decode. -/
theorem State.decode6_of_noError {s : State} (h : s.firstHashError = none) :
    ∃ v0 v1 : BitVec 6, decode6 (s.saltByte 0) = some v0 ∧ decode6 (s.saltByte 1) = some v1 := by
  unfold State.firstHashError at h
  split at h
  · cases h
  split at h
  · cases h
  split at h
  · cases h
  rename_i h3
  cases h0 : decode6 (s.saltByte 0) with
  | none => exact absurd (.inr (.inl h0)) h3
  | some v0 =>
    cases h1 : decode6 (s.saltByte 1) with
    | none => exact absurd (.inr (.inr h1)) h3
    | some v1 => exact ⟨v0, v1, rfl, rfl⟩

/-- HASH on a resolved slot ends in one of two ways (R221): the first error, with the token left, or the string. -/
theorem State.hashOn_cases (s : State) (slot : Nat) :
    (∃ e, s.firstHashError = some e ∧ s.OnlyStatus (s.hashOn slot) false e.value ∧
      (s.hashOn slot).allocDraws = s.allocDraws ∧
      ∀ b, (s.hashOn slot).byteAt b = s.byteAfterHash slot s.failureToken b) ∨
    (∃ v0 v1, s.firstHashError = none ∧ decode6 (s.saltByte 0) = some v0 ∧ decode6 (s.saltByte 1) = some v1 ∧
      s.OnlyStatus (s.hashOn slot) true 0#4 ∧ (s.hashOn slot).allocDraws = s.allocDraws ∧
      ∀ b, (s.hashOn slot).byteAt b = s.byteAfterHash slot
        (outString (s.saltByte 0) (s.saltByte 1) (Des.digest (packKey s.keySource) (v1 ++ v0))) b) := by
  cases h : s.firstHashError with
  | some e => exact .inl ⟨e, rfl, State.hashOn_error s slot e h⟩
  | none =>
    obtain ⟨v0, v1, h0, h1⟩ := State.decode6_of_noError h
    exact .inr ⟨v0, v1, rfl, h0, h1, State.hashOn_ok s slot v0 v1 h h0 h1⟩

/-! ## The bytes after a HASH -/

theorem State.byteAfterHash_output (s : State) (slot : Nat) (out : List Byte) (j : Nat) (hj : j < out.length) :
    s.byteAfterHash slot out (slotAt slot j) = out.getD j 0#8 := by
  unfold State.byteAfterHash
  rw [if_pos (by simp only [slotAt]; omega), show slotAt slot j - slotAt slot 0 = j by simp only [slotAt]; omega]

theorem State.byteAfterHash_scratch (s : State) (slot : Nat) (out : List Byte) (ho : out.length ≤ 384) (j : Nat)
    (hj : j < 32768) : s.byteAfterHash slot out (scratchAt slot j) = 0#8 := by
  unfold State.byteAfterHash
  rw [if_neg (by simp only [scratchAt, slotAt]; omega), if_pos (by simp only [scratchAt, slotAt]; omega)]

theorem State.byteAfterHash_outside (s : State) (slot : Nat) (out : List Byte) (ho : out.length ≤ 384) (b : Nat)
    (hb : b < slotAt slot 0 ∨ slotAt slot 33280 ≤ b) : s.byteAfterHash slot out b = s.byteAt b := by
  unfold State.byteAfterHash
  rw [if_neg (by simp only [slotAt] at *; omega), if_neg (by simp only [scratchAt, slotAt] at *; omega),
    if_neg (by simp only [slotAt] at *; omega)]

/-! ## HASH and the register page -/

/-- HASH does the same from two register pages with equal ARGS, SALT_LEN, PASS_LEN and CTX_SIZE (R229). -/
theorem State.hash_setRegs (s : State) (m : HashMode) (c : Nat) (r : Regs) (h1 : r.args = s.regs.args)
    (h2 : r.saltLen = s.regs.saltLen) (h3 : r.passLen = s.regs.passLen) (h4 : r.ctxSize = s.regs.ctxSize) :
    (s.setRegs r).hash m c = (s.hash m c).setRegs (r.setStatus (s.hash m c).regs.ok (s.hash m c).regs.code) := by
  have hr : (s.setRegs r).resolveContext m c = s.resolveContext m c := by
    unfold State.resolveContext State.indexOk
    simp only [State.setRegs_regs, h4, State.setRegs_cfg]
    rfl
  have ha : (s.setRegs r).afterResolve m c = (s.afterResolve m c).setRegs r := by
    unfold State.afterResolve State.indexOk
    simp only [State.setRegs_cfg]
    split <;> rfl
  have hg := (State.afterResolve_fields s m c).1
  cases hx : s.resolveContext m c with
  | error e =>
    rw [State.hash_of_error hx, State.hash_of_error (hr.trans hx), ha, State.failureEpilogue_none_setRegs,
      State.failureEpilogue_none]
  | ok slot =>
    rw [State.hash_of_ok hx, State.hash_of_ok (hr.trans hx), ha,
      State.hashOn_setRegs _ _ _ (by rw [hg, h1]) (by rw [hg, h2]) (by rw [hg, h3])]

/-! ## HASH and the bus

The accesses still to come and the last answer matter to no command (60_exceptions.md R271, R274). -/

theorem State.fillBytes_complete (s : State) (es : List BusEvent) (p : Reply) (lo n : Nat) (v : Byte) :
    (s.complete es p).fillBytes lo n v = (s.fillBytes lo n v).complete es p := by
  simp only [State.fillBytes, State.setMem, State.complete]

theorem State.writeBytes_complete (s : State) (es : List BusEvent) (p : Reply) (a : Nat) (bs : List Byte) :
    (s.complete es p).writeBytes a bs = (s.writeBytes a bs).complete es p := by
  simp only [State.writeBytes, State.setMem, State.complete]

theorem State.scrub_complete (s : State) (es : List BusEvent) (p : Reply) (c : Nat) :
    (s.complete es p).scrub c = (s.scrub c).complete es p := State.fillBytes_complete ..

theorem State.initWord_complete (s : State) (es : List BusEvent) (p : Reply) (c : Nat) :
    (s.complete es p).initWord c = s.initWord c := State.readLE_congr fun _ _ => State.byteAt_complete ..

theorem State.ensureInitialized_complete (s : State) (es : List BusEvent) (p : Reply) (c : Nat) :
    (s.complete es p).ensureInitialized c = (s.ensureInitialized c).complete es p := by
  unfold State.ensureInitialized
  rw [State.initWord_complete]
  split
  · rw [State.fillBytes_complete, State.writeLE, State.writeBytes_complete, State.writeLE]
  · rfl

theorem State.tokenByte_complete (s : State) (es : List BusEvent) (p : Reply) :
    (s.complete es p).tokenByte = s.tokenByte := by
  have h1 : (s.complete es p).saltPresent = s.saltPresent := rfl
  have h2 : (s.complete es p).saltByte 0 = s.saltByte 0 := State.byteAt_complete ..
  rw [State.tokenByte, h1, h2, State.complete_regs, State.tokenByte]

theorem State.prologue_complete (s : State) (es : List BusEvent) (p : Reply) (slot : Nat) :
    (s.complete es p).prologue slot = (s.prologue slot).complete es p := by
  rw [State.prologue_eq, State.prologue_eq, State.failureToken, State.failureToken, State.tokenByte_complete,
    State.ensureInitialized_complete, State.writeBytes_complete]

theorem State.computeDigest_complete (s : State) (es : List BusEvent) (p : Reply) (k : Block) (salt : BitVec 12) :
    (s.complete es p).computeDigest k salt = (s.computeDigest k salt).complete es p := by
  simp only [State.computeDigest, State.setHidden, State.complete]

theorem State.successEpilogue_complete (s : State) (es : List BusEvent) (p : Reply) :
    (s.complete es p).successEpilogue = s.successEpilogue.complete es p := by
  simp only [State.successEpilogue_eq, State.complete]

theorem State.failureEpilogue_none_complete (s : State) (es : List BusEvent) (p : Reply) (e : ErrCode) :
    (s.complete es p).failureEpilogue e none = (s.failureEpilogue e none).complete es p := by
  simp only [State.failureEpilogue_none, State.complete]

theorem State.writeResult_complete (s : State) (es : List BusEvent) (p : Reply) (slot : Nat) (c0 c1 : Byte) :
    (s.complete es p).writeResult slot c0 c1 = (s.writeResult slot c0 c1).complete es p := by
  simp only [State.writeResult, State.writeBytes_complete, State.complete_hidden]

theorem State.hashOn_complete (s : State) (es : List BusEvent) (p : Reply) (slot : Nat) :
    (s.complete es p).hashOn slot = (s.hashOn slot).complete es p := by
  have hi : (s.complete es p).hashInputs = s.hashInputs :=
    State.hashInputs_congr rfl rfl rfl fun b _ => State.byteAt_complete ..
  rw [State.hashOn_eq, State.hashOn_eq, hi, State.prologue_complete]
  cases s.hashInputs with
  | error e => simp only [State.scrub_complete, State.failureEpilogue_none_complete]
  | ok inp =>
    simp only [State.computeDigest_complete, State.writeResult_complete, State.scrub_complete,
      State.successEpilogue_complete]

/-- HASH does the same whatever accesses are to come. -/
theorem State.hash_complete (s : State) (es : List BusEvent) (p : Reply) (m : HashMode) (c : Nat) :
    (s.complete es p).hash m c = (s.hash m c).complete es p := by
  have hr : (s.complete es p).resolveContext m c = s.resolveContext m c := rfl
  have ha : (s.complete es p).afterResolve m c = (s.afterResolve m c).complete es p := by
    unfold State.afterResolve
    have : (s.complete es p).indexOk c = s.indexOk c := rfl
    rw [this]
    split <;> rfl
  cases hx : s.resolveContext m c with
  | error e => rw [State.hash_of_error hx, State.hash_of_error (hr.trans hx), ha, State.failureEpilogue_none_complete]
  | ok slot => rw [State.hash_of_ok hx, State.hash_of_ok (hr.trans hx), ha, State.hashOn_complete]

end Sys2Proof.Machine
end

