-- ==== Sys2Proof/Laws/PerInstr.lean ====
section
/-! SUPPORT. What holds of every command as syntax: its word leaves both reserved fields 0, and only HASH has a mode
(30_encoding.md R96). -/

namespace Sys2Proof.Laws.Reserved

/-- The word of a command obeys the constraints of 30_encoding.md R96 on RSV0, RSV1 and MODE. -/
def Statement (i : Instr) : Prop :=
  rsv0Field (encode i) = 0#6 ∧ rsv1Field (encode i) = 0#8 ∧ (opField (encode i) ≠ 0x01#8 → modeField (encode i) = 0#2)

/-- Any packed word has both reserved fields 0 and gives its mode and OP back. -/
theorem packC_fields (op : BitVec 8) (mode : BitVec 2) (ctx : BitVec 8) :
    rsv0Field (packC op mode ctx) = 0#6 ∧ rsv1Field (packC op mode ctx) = 0#8 ∧
    modeField (packC op mode ctx) = mode ∧ opField (packC op mode ctx) = op := by
  simp only [rsv0Field, rsv1Field, modeField, opField, packC]
  refine ⟨?_, ?_, ?_, ?_⟩
  all_goals
    apply BitVec.eq_of_getLsbD_eq
    intro i hi
    simp only [BitVec.getLsbD_extractLsb', BitVec.getLsbD_append, hi, decide_true, Bool.true_and, Nat.zero_add]
  · rw [if_neg (by omega), if_neg (by omega), if_pos (by omega)]
    simp
  · rw [if_neg (by omega), if_neg (by omega), if_neg (by omega), if_neg (by omega)]
    simp
  · rw [if_neg (by omega), if_pos (by omega)]
    congr 1
    omega
  · rw [if_pos trivial]

/-- A word packed with a mode of 0, or with HASH's OP, meets the constraints. -/
theorem of_packC {i : Instr} {op : BitVec 8} {mode : BitVec 2} {ctx : BitVec 8} (h : encode i = packC op mode ctx)
    (hm : op ≠ 0x01#8 → mode = 0#2) : Statement i := by
  obtain ⟨h0, h1, h2, h3⟩ := packC_fields op mode ctx
  rw [Statement, h, h0, h1, h2, h3]
  exact ⟨rfl, rfl, hm⟩

theorem nop : Statement .nop := of_packC rfl fun _ => rfl
theorem hashShared : Statement .hashShared := of_packC rfl fun h => absurd rfl h
theorem hashReentrant (c : Nat) : Statement (.hashReentrant c) := of_packC rfl fun h => absurd rfl h
theorem hashSized (c : Nat) : Statement (.hashSized c) := of_packC rfl fun h => absurd rfl h
theorem hashGrowing (c : Nat) : Statement (.hashGrowing c) := of_packC rfl fun h => absurd rfl h
theorem ctxInit (c : Nat) : Statement (.ctxInit c) := of_packC rfl fun _ => rfl
theorem saltDecode : Statement .saltDecode := of_packC rfl fun _ => rfl
theorem encode6 : Statement .encode6 := of_packC rfl fun _ => rfl
theorem keyDerive : Statement .keyDerive := of_packC rfl fun _ => rfl
theorem digest : Statement .digest := of_packC rfl fun _ => rfl
theorem outEncode : Statement .outEncode := of_packC rfl fun _ => rfl

end Sys2Proof.Laws.Reserved
end

