-- ==== Sys2Proof/Laws/Step.lean ====
section
/-! SUPPORT. What a step can do, said once: one theorem inverts it, and the others say what each kind of access gives. -/

namespace Sys2Proof.Machine

/-! ## The window's regions -/

/-- The four regions of 20_memory.md R61 as plain ranges. -/
theorem regionOf_cases {cfg : Config} {o : Nat} {r : Region} (h : regionOf cfg o = some r) :
    (r = .page ∧ o < 0x100) ∨ (r = .passBuf ∧ 0x1000 ≤ o ∧ o < 0x1200) ∨ (r = .saltBuf ∧ 0x1800 ≤ o ∧ o < 0x1810) ∨
    (∃ c j, r = .slot c ∧ c < cfg.nCtx ∧ j < 0x8200 ∧ o = slotAt c j) := by
  unfold regionOf at h
  split at h
  · rename_i h1
    injection h with h
    exact .inl ⟨h.symm, h1⟩
  split at h
  · rename_i h1
    injection h with h
    exact .inr (.inl ⟨h.symm, h1⟩)
  split at h
  · rename_i h1
    injection h with h
    exact .inr (.inr (.inl ⟨h.symm, h1⟩))
  split at h
  · rename_i h1
    simp only [Config.ctxLayoutBytes] at h1
    injection h with h
    exact .inr (.inr (.inr ⟨o / 0x10000 - 1, o % 0x10000, h.symm, by omega, by omega, by simp only [slotAt]; omega⟩))
  · cases h

theorem regionOf_page (cfg : Config) {o : Nat} (h : o < 0x100) : regionOf cfg o = some .page := by
  unfold regionOf
  rw [if_pos h]

theorem regionOf_passBuf (cfg : Config) {o : Nat} (h : 0x1000 ≤ o) (h' : o < 0x1200) :
    regionOf cfg o = some .passBuf := by
  unfold regionOf
  rw [if_neg (by omega), if_pos ⟨h, h'⟩]

theorem regionOf_saltBuf (cfg : Config) {o : Nat} (h : 0x1800 ≤ o) (h' : o < 0x1810) :
    regionOf cfg o = some .saltBuf := by
  unfold regionOf
  rw [if_neg (by omega), if_neg (by simp only [Config.passBufBytes]; omega), if_pos ⟨h, h'⟩]

theorem regionOf_slot (cfg : Config) {c j : Nat} (hc : c < cfg.nCtx) (hj : j < 0x8200) :
    regionOf cfg (slotAt c j) = some (.slot c) := by
  unfold regionOf slotAt
  rw [if_neg (by omega), if_neg (by simp only [Config.passBufBytes]; omega),
    if_neg (by simp only [Config.saltBufBytes]; omega), if_pos (by simp only [Config.ctxLayoutBytes]; omega)]
  congr 2
  omega

/-! ## Admitted accesses -/

/-- An aligned word of the register page is admitted. -/
theorem admit_page (cfg : Config) {o : Nat} (h : o < 0x100) (h4 : o % 4 = 0) : admitAccess cfg (cfg.base + o) 4 = .ok o := by
  unfold admitAccess
  rw [if_neg (by simp only [Config.windowBytes]; omega), show cfg.base + o - cfg.base = o by omega]
  simp [regionOf_page cfg h, regionOf_page cfg (show o + (4 - 1) < 0x100 by omega), h4]

/-- What admission says of an access: the offset is the address less BASE, the width is legal and aligned, and the access
lies in one region (20_memory.md R62, R66, R69, R70). -/
theorem admit_ok {cfg : Config} {addr n o : Nat} (h : admitAccess cfg addr n = .ok o) :
    addr = cfg.base + o ∧ (n = 1 ∨ n = 2 ∨ n = 4) ∧ o % n = 0 ∧
    ∃ r, regionOf cfg o = some r ∧ regionOf cfg (o + (n - 1)) = some r ∧ (r = .page → n = 4) := by
  unfold admitAccess at h
  split at h
  · cases h
  split at h
  · cases h
  split at h
  · cases h
  split at h
  · cases h
  split at h
  · cases h
  rename_i h1 _ r hr h2 h3 h4
  injection h with h
  subst h
  obtain ⟨h2a, h2b⟩ := not_or.1 h2
  refine ⟨by omega, by omega, not_not.1 h3, r, hr, not_not.1 h4, fun hp => ?_⟩
  by_contra hn
  exact h2a ⟨hp, hn⟩

/-! ## One step -/

/-- A CMD write executes its word (10_state.md R24). -/
theorem step_cmd {s : State} {host : Nat} {w : Word} {rest : List BusEvent}
    (hb : s.bus = .write host s.cfg.base 4 w :: rest) : step s = runCommand w (s.complete rest (.writeDone host)) := by
  have ha : admitAccess s.cfg s.cfg.base 4 = .ok 0 := by simpa using admit_page s.cfg (o := 0) (by omega) rfl
  simp [step, State.nextAction, hb, State.writeAction, ha, regOffset]

/-- Every other admitted write stores its value (20_memory.md R67). -/
theorem step_write {s : State} {host addr n o : Nat} {v : Word} {rest : List BusEvent}
    (hb : s.bus = .write host addr n v :: rest) (ha : admitAccess s.cfg addr n = .ok o) (ho : o ≠ 0) :
    step s = .next ((s.complete rest (.writeDone host)).hostWrite o n v) := by
  have : ¬ o = regOffset .cmd := ho
  simp only [step, State.nextAction, hb, State.writeAction, ha, this, if_false]

/-- A run of a machine starts with its first step. -/
theorem run_succ_of_step (m : Host.Core) (k : Nat) {s t : m.State} (h : m.step s = .next t) : m.run (k + 1) s = m.run k t := by
  simp only [Host.Core.run, h]

/-- Every command answers a next state. -/
theorem exec_answers (i : Instr) (s : State) : ∃ t, exec i s = .next t := by
  cases i <;> simp only [exec, execNop, execHashShared, execHashReentrant, execHashSized, execHashGrowing, execCtxInit,
    execSaltDecode, execEncode6, execKeyDerive, execDigest, execOutEncode]
  all_goals first
    | exact ⟨_, rfl⟩
    | (split <;> exact ⟨_, rfl⟩)

/-- Every word answers a next state, legal or not. -/
theorem runCommand_answers (w : Word) (s : State) : ∃ t, runCommand w s = .next t := by
  unfold runCommand
  split
  · exact exec_answers _ _
  · exact ⟨_, rfl⟩

/-- Everything a step that answers a next state can have done: waited, reset, read, written a register or storage, or run
a command. -/
theorem step_cases {s t : State} (h : step s = .next t) :
    (s.bus = [] ∧ t = s) ∨
    (∃ rest, s.bus = .reset :: rest ∧ t = s.resetEvent rest) ∨
    (∃ host addr n o rest, s.bus = .read host addr n :: rest ∧ admitAccess s.cfg addr n = .ok o ∧
      t = s.complete rest (.readData host (s.hostRead o n))) ∨
    (∃ host addr n o v rest, s.bus = .write host addr n v :: rest ∧ admitAccess s.cfg addr n = .ok o ∧ o ≠ 0 ∧
      t = (s.complete rest (.writeDone host)).hostWrite o n v) ∨
    (∃ host n w rest, s.bus = .write host s.cfg.base n w :: rest ∧ admitAccess s.cfg s.cfg.base n = .ok 0 ∧
      runCommand w (s.complete rest (.writeDone host)) = .next t) := by
  simp only [step, State.nextAction] at h
  cases hb : s.bus with
  | nil =>
    simp only [hb] at h
    injection h with h
    exact .inl ⟨rfl, h.symm⟩
  | cons ev rest =>
    cases ev with
    | reset =>
      simp only [hb] at h
      injection h with h
      exact .inr (.inl ⟨rest, rfl, h.symm⟩)
    | read host addr n =>
      simp only [hb, State.readAction] at h
      cases ha : admitAccess s.cfg addr n with
      | error f => simp [ha] at h
      | ok o =>
        simp only [ha] at h
        injection h with h
        exact .inr (.inr (.inl ⟨host, addr, n, o, rest, rfl, ha, h.symm⟩))
    | write host addr n v =>
      simp only [hb, State.writeAction] at h
      cases ha : admitAccess s.cfg addr n with
      | error f => simp [ha] at h
      | ok o =>
        by_cases ho : o = regOffset .cmd
        · simp only [ha, ho, if_true] at h
          have ho' : o = 0 := ho
          subst ho'
          have hadd : addr = s.cfg.base := by have := (admit_ok ha).1; omega
          subst hadd
          exact .inr (.inr (.inr (.inr ⟨host, n, v, rest, rfl, ha, h⟩)))
        · simp only [ha, ho, if_false] at h
          injection h with h
          exact .inr (.inr (.inr (.inl ⟨host, addr, n, o, v, rest, rfl, ha, ho, h.symm⟩)))

/-! ## Storage stays inside the map -/

theorem Memory.mapped_iff (cfg : Config) (m : Memory) : Memory.mapped cfg m = true ↔
    ∀ cell ∈ m, ∃ r, regionOf cfg cell.1 = some r ∧ r ≠ .page := by
  simp only [Memory.mapped, List.all_eq_true, Bool.and_eq_true, Option.isSome_iff_exists, bne_iff_ne]
  constructor
  · intro h cell hc
    obtain ⟨⟨r, hr⟩, hp⟩ := h cell hc
    exact ⟨r, hr, fun he => hp (by rw [hr, he])⟩
  · intro h cell hc
    obtain ⟨r, hr, hp⟩ := h cell hc
    exact ⟨⟨r, hr⟩, fun he => hp (by rw [hr] at he; injection he)⟩

/-- A fill inside the map keeps storage inside it. -/
theorem Memory.mapped_fill {cfg : Config} {m : Memory} (lo n : Nat) (v : Byte) (hm : Memory.mapped cfg m = true)
    (h : ∀ a, lo ≤ a → a < lo + n → ∃ r, regionOf cfg a = some r ∧ r ≠ .page) :
    Memory.mapped cfg (Memory.fill m lo n v) = true := by
  rw [Memory.mapped_iff] at hm ⊢
  intro cell hc
  rcases Memory.mem_fill hc with ⟨h1, h2⟩ | hc
  · exact h _ h1 h2
  · exact hm cell hc

/-- A write inside the map keeps storage inside it. -/
theorem Memory.mapped_write {cfg : Config} {m : Memory} (a : Nat) (bs : List Byte) (hm : Memory.mapped cfg m = true)
    (h : ∀ b, a ≤ b → b < a + bs.length → ∃ r, regionOf cfg b = some r ∧ r ≠ .page) :
    Memory.mapped cfg (Memory.write m a bs) = true := by
  rw [Memory.mapped_iff] at hm ⊢
  intro cell hc
  rcases Memory.mem_write hc with ⟨h1, h2⟩ | hc
  · exact h _ h1 h2
  · exact hm cell hc

/-- Storage after any reset is empty, hence canonical and inside the map. -/
theorem State.resetWith_mem (cfg : Config) (epoch n : Nat) (bus : List BusEvent) :
    (State.resetWith cfg epoch n bus).mem = [] := rfl

/-- The canonical form holds right after reset. -/
theorem State.reset_wf : Memory.wf State.reset.mem = true := rfl

end Sys2Proof.Machine
end

