-- ==== Sys2Proof/Tests/Slice0.lean ====
section
/-! SUPPORT. Tests of single steps against the vectors of spec/95_test_vectors.md ("V-…", "P…" and "S…" below are its ids), and
for each statement of Certificates/Slice0/Obligations.lean that has hypotheses a witness that meets them. -/

namespace Sys2Proof.Tests

open Sys2Proof.Machine

/-! ## Small states -/

/-- After reset, with a passphrase and a salt written and both arguments present, as `crypt.shared` sets them up. -/
def inputs (pass salt : List Byte) : State :=
  ((State.reset.writeBytes 0x1000 pass).writeBytes 0x1800 salt).setRegs
    { Regs.reset with args := 3#2, passLen := BitVec.ofNat 32 pass.length, saltLen := BitVec.ofNat 32 salt.length }

/-- The bytes of `password`. -/
def password : List Byte := [0x70#8, 0x61#8, 0x73#8, 0x73#8, 0x77#8, 0x6F#8, 0x72#8, 0x64#8]

/-- The bytes of `ab`. -/
def ab : List Byte := [0x61#8, 0x62#8]

/-- `s` with these accesses to come. -/
def onBus (s : State) (es : List BusEvent) : State := { s with bus := es }

/-- The state after an outcome, where it is a next state. -/
def after : Host.Outcome State Fault Refusal → Option State
  | .next t => some t
  | .fault _ => none
  | .refused _ => none

/-- A field of the state that one step leaves. -/
def stepTo {α : Type} (s : State) (f : State → α) : Option α := (after (step s)).map f

/-- A field of the state that one CMD write of `w` leaves. -/
def cmdTo {α : Type} (w : Nat) (s : State) (f : State → α) : Option α := stepTo (s.withFetchWord 32 w) f

/-- RESULT and ERR as a host reads them. -/
def status (s : State) : Nat × Nat := ((s.readReg .result).toNat, (s.readReg .err).toNat)

/-! ## Well-formed and ill-formed commands -/

theorem test_wf_hashReentrant : WellFormed (.hashReentrant 255) ∧ ¬ WellFormed (.hashReentrant 256) := by decide
theorem test_wf_hashSized : WellFormed (.hashSized 255) ∧ ¬ WellFormed (.hashSized 256) := by decide
theorem test_wf_hashGrowing : WellFormed (.hashGrowing 255) ∧ ¬ WellFormed (.hashGrowing 256) := by decide
theorem test_wf_ctxInit : WellFormed (.ctxInit 255) ∧ ¬ WellFormed (.ctxInit 256) := by decide

/-! ## Decoding: words written out field by field, RSV1 CTX RSV0 MODE OP (30_encoding.md R91) -/

theorem test_decode_nop : decode (0b00000000#8 ++ 0b00000000#8 ++ 0b000000#6 ++ 0b00#2 ++ 0b00000000#8) = .ok .nop := by decide
theorem test_decode_hashShared :
    decode (0b00000000#8 ++ 0b00000000#8 ++ 0b000000#6 ++ 0b00#2 ++ 0b00000001#8) = .ok .hashShared := by decide
theorem test_decode_hashReentrant :
    decode (0b00000000#8 ++ 0b00000010#8 ++ 0b000000#6 ++ 0b01#2 ++ 0b00000001#8) = .ok (.hashReentrant 2) := by decide
theorem test_decode_hashSized :
    decode (0b00000000#8 ++ 0b11111111#8 ++ 0b000000#6 ++ 0b10#2 ++ 0b00000001#8) = .ok (.hashSized 255) := by decide
theorem test_decode_hashGrowing :
    decode (0b00000000#8 ++ 0b00000011#8 ++ 0b000000#6 ++ 0b11#2 ++ 0b00000001#8) = .ok (.hashGrowing 3) := by decide
theorem test_decode_ctxInit :
    decode (0b00000000#8 ++ 0b00000100#8 ++ 0b000000#6 ++ 0b00#2 ++ 0b00000010#8) = .ok (.ctxInit 4) := by decide
theorem test_decode_saltDecode :
    decode (0b00000000#8 ++ 0b00000000#8 ++ 0b000000#6 ++ 0b00#2 ++ 0b00010000#8) = .ok .saltDecode := by decide
theorem test_decode_encode6 :
    decode (0b00000000#8 ++ 0b00000000#8 ++ 0b000000#6 ++ 0b00#2 ++ 0b00010001#8) = .ok .encode6 := by decide
theorem test_decode_keyDerive :
    decode (0b00000000#8 ++ 0b00000000#8 ++ 0b000000#6 ++ 0b00#2 ++ 0b00100000#8) = .ok .keyDerive := by decide
theorem test_decode_digest :
    decode (0b00000000#8 ++ 0b00000000#8 ++ 0b000000#6 ++ 0b00#2 ++ 0b00110000#8) = .ok .digest := by decide
theorem test_decode_outEncode :
    decode (0b00000000#8 ++ 0b00000000#8 ++ 0b000000#6 ++ 0b00#2 ++ 0b01000000#8) = .ok .outEncode := by decide

/-- V-DEC-3 and V-DEC-9 to V-DEC-15: the Illegal words. -/
theorem test_decode_illegal :
    decode 0x00010001#32 = .error .ctxNotZero ∧ decode 0x00000102#32 = .error .modeNotZero ∧
    decode 0x00000003#32 = .error .reservedOp ∧ decode 0x00000410#32 = .error .reservedField ∧
    decode 0x01000010#32 = .error .reservedField ∧ decode 0x00010010#32 = .error .ctxNotZero ∧
    decode 0x00000120#32 = .error .modeNotZero ∧ decode 0x000000FF#32 = .error .reservedOp := by decide

/-! ## NOP -/

/-- P3 line 10: NOP leaves ERR at 2. -/
theorem test_nop_keeps_the_status :
    cmdTo 0x00000000 (State.reset.setRegs (Regs.reset.setStatus false 2#4)) status = some (0, 2) := by decide

/-! ## HASH -/

/-- V-HASH-1: `abZcTEHPD9vQ3` and NUL, on slot 0, RESULT 1. -/
theorem test_hashShared_V_HASH_1 :
    cmdTo 0x00000001 (inputs password ab)
      (fun t => (status t, (List.range 14).map (fun j => (t.byteAt (slotAt 0 j)).toNat))) =
    some ((1, 0), [0x61, 0x62, 0x5A, 0x63, 0x54, 0x45, 0x48, 0x50, 0x44, 0x39, 0x76, 0x51, 0x33, 0x00]) := by
  decide +kernel

/-- V-ERR-3: a salt outside the alphabet is InvalidSalt and leaves the token `!0` and NUL. -/
theorem test_hashReentrant_V_ERR_3 :
    cmdTo 0x00010101 (inputs password [0x21#8, 0x40#8])
      (fun t => (status t, (List.range 3).map (fun j => (t.byteAt (slotAt 1 j)).toNat))) =
    some ((0, 2), [0x21, 0x30, 0x00]) := by decide +kernel

/-- V-ERR-8: slot 0 is not a slot of the reentrant mode. -/
theorem test_hashReentrant_V_ERR_8 : cmdTo 0x00000101 (inputs password ab) status = some (0, 1) := by decide

/-- V-ERR-7: a CTX_SIZE of 0x1000 is a RangeError, and INIT of slot 2 is still 0 (P3 line 4). -/
theorem test_hashSized_V_ERR_7 :
    cmdTo 0x00020201 ((inputs password ab).setRegs ((inputs password ab).regs.setCtxSize 0x1000#32))
      (fun t => (status t, (t.initWord 2).toNat)) = some ((0, 5), 0) := by decide +kernel

/-- V-DEC-5: slot 255 does not exist when N_CTX is 4. -/
theorem test_hashSized_V_DEC_5 : cmdTo 0x00FF0201 (inputs password ab) status = some (0, 1) := by decide

/-- 44_hash_context.md R233: a slot that is not admitted takes no draw, and an admitted one takes one. -/
theorem test_hashGrowing_draws :
    cmdTo 0x00040301 (inputs password ab) (fun t => (status t, t.allocDraws)) = some ((0, 1), 0) ∧
    State.allocDraws ((inputs password ab).afterResolve .growing 3) = 1 := by decide

/-! ## CTX_INIT -/

/-- V-INIT-1: after CTX_INIT of slot 1 its INIT reads 1 and its first byte 0. -/
theorem test_ctxInit_V_INIT_1 :
    cmdTo 0x00010002 State.reset (fun t => (status t, (t.byteAt (initAt 1)).toNat, (t.byteAt (slotAt 1 0)).toNat)) =
    some ((1, 0), 1, 0) := by decide +kernel

/-- V-DEC-8: slot 4 does not exist when N_CTX is 4. -/
theorem test_ctxInit_V_DEC_8 : cmdTo 0x00040002 State.reset status = some (0, 1) := by decide

/-! ## SALT_DECODE and ENCODE6 -/

/-- V-SALT-1: `ab`. -/
theorem test_saltDecode_V_SALT_1 :
    cmdTo 0x00000010 (inputs [] ab) (fun t => (status t, (t.readReg .saltNum).toNat, (t.readReg .saltCh).toNat)) =
    some ((1, 0), 0x9E6, 0x6261) := by decide

/-- V-SALT-7: `$` alone is UnsupportedFormat, the marker before the length. -/
theorem test_saltDecode_V_SALT_7 : cmdTo 0x00000010 (inputs [] [0x24#8]) status = some (0, 3) := by decide

/-- V-ENC6-6: 37 is `Z`. -/
theorem test_encode6_V_ENC6_6 :
    cmdTo 0x00000011 (State.reset.setRegs (Regs.reset.setEncArg 37#32)) (fun t => (status t, (t.readReg .encRes).toNat)) =
    some ((1, 0), 0x5A) := by decide

/-- V-ENC6-9: 64 is an InvalidArgument. -/
theorem test_encode6_V_ENC6_9 :
    cmdTo 0x00000011 (State.reset.setRegs (Regs.reset.setEncArg 64#32)) status = some (0, 1) := by decide

/-! ## KEY_DERIVE -/

/-- V-KEY-5: `\xE1bc`, the key of `abc`. -/
theorem test_keyDerive_V_KEY_5 :
    cmdTo 0x00000020 (inputs [0xE1#8, 0x62#8, 0x63#8] [])
      (fun t => (status t, (t.readReg .keyHi).toNat, (t.readReg .keyLo).toNat)) =
    some ((1, 0), 0xC2C4C600, 0x00000000) := by decide

/-- V-KEY-9: a length of 512 is PassphraseTooLong. -/
theorem test_keyDerive_V_KEY_9 :
    cmdTo 0x00000020 (State.reset.setRegs ((Regs.reset.setArgs 3#2).setPassLen 512#32)) status = some (0, 4) := by decide

/-! ## DIGEST -/

/-- V-DES-1 (one encryption with salt 0) and V-SWAP. -/
theorem test_digest_V_DES_1_V_SWAP :
    Des.encrypt (Des.keySchedule 0x133457799BBCDFF1#64) 0#12 0x0123456789ABCDEF#64 = 0x85E813540F0AB405#64 ∧
    Des.saltSwap 0xFFFFFF000000#48 0xFFF#12 = 0x000FFFFFF000#48 ∧
    Des.saltSwap 0xFFFFFF000000#48 0x001#12 = 0x7FFFFF800000#48 := by decide +kernel

/-- V-DIG-1: the digest of `password` under `ab`. -/
theorem test_digest_V_DIG_1 :
    cmdTo 0x00000030 (State.reset.setRegs ((Regs.reset.setKey 0xE0C2E6E6EEDEE4C8#64).setSaltNum 0x9E6#12))
      (fun t => (status t, (t.readReg .digHi).toNat, (t.readReg .digLo).toNat)) =
    some ((1, 0), 0x573B2CF6, 0xD341FA25) := by decide +kernel

/-! ## OUT_ENCODE -/

/-- V-OUT-6. -/
theorem test_outEncode_V_OUT_6 :
    cmdTo 0x00000040 (State.reset.setRegs ((Regs.reset.setDigest 0x0123456789ABCDEF#64).setSaltCh 0x6261#16))
      (fun t => (status t, (t.readReg .outW0).toNat, (t.readReg .outW1).toNat, (t.readReg .outW2).toNat,
        (t.readReg .outW3).toNat)) =
    some ((1, 0), 0x726A6261, 0x53376577, 0x3258464B, 0x0000002E) := by decide +kernel

/-- V-OUT-8: characters outside the alphabet pass through. -/
theorem test_outEncode_V_OUT_8 :
    cmdTo 0x00000040 (State.reset.setRegs (Regs.reset.setSaltCh 0xFFFF#16))
      (fun t => (status t, (t.readReg .outW0).toNat)) = some ((1, 0), 0x2E2EFFFF) := by decide +kernel

/-! ## Illegal words, registers and memory -/

/-- V-DEC-10: a reserved OP is IllegalCommand. -/
theorem test_illegal_V_DEC_10 : cmdTo 0x00000003 State.reset status = some (0, 7) := by decide

/-- V-MEM-1: the bytes of 0x73736170 at 0x1000, low byte first. -/
theorem test_memory_V_MEM_1 :
    stepTo (onBus State.reset [.write 0 0x1000 4 0x73736170#32])
      (fun t => ((t.hostRead 0x1000 1).toNat, (t.hostRead 0x1003 1).toNat, (t.hostRead 0x1002 2).toNat)) =
    some (0x70, 0x73, 0x7373) := by decide

/-- V-MEM-2 and V-MEM-3: bus errors, and the last byte of slot 3 beside them. -/
theorem test_memory_V_MEM_2_3 :
    admitAccess Config.default 0x1001 2 = .error (.misaligned 0x1001 2) ∧
    admitAccess Config.default 0x000 1 = .error (.badWidth 0x000 1) ∧
    admitAccess Config.default 0x18200 4 = .error (.unmapped 0x18200) ∧
    admitAccess Config.default 0x50000 4 = .error (.unmapped 0x50000) ∧
    admitAccess Config.default 0x2000000 4 = .error (.outsideWindow 0x2000000) ∧
    admitAccess Config.default 0x481FF 1 = .ok 0x481FF := by decide

/-- V-MEM-4: ARGS keeps two bits and RESULT ignores writes. -/
theorem test_memory_V_MEM_4 :
    stepTo (onBus State.reset [.write 0 0x00C 4 0xFFFFFFFF#32]) (fun t => (t.readReg .args).toNat) = some 3 ∧
    stepTo (onBus State.reset [.write 0 0x024 4 0xFFFFFFFF#32]) (fun t => (t.readReg .saltNum).toNat) = some 0xFFF ∧
    stepTo (onBus State.reset [.write 0 0x004 4 1#32]) status = some (0, 0) := by decide

/-- V-MEM-5: CONFIG reads N_CTX, a reserved offset and CMD read 0. -/
theorem test_memory_V_MEM_5 :
    stepTo (onBus State.reset [.read 7 0x04C 4]) State.reply = some (some (.readData 7 4#32)) ∧
    stepTo (onBus State.reset [.read 7 0x050 4]) State.reply = some (some (.readData 7 0#32)) ∧
    stepTo (onBus State.reset [.read 7 0x000 4]) State.reply = some (some (.readData 7 0#32)) := by decide

/-- The canonical form: INIT written back to 0 is not listed (V-INIT-2). -/
theorem test_memory_canonical :
    (State.reset.writeLE (initAt 1) 4 1#32).mem = [(0x20180, 1#8)] ∧
    ((State.reset.writeLE (initAt 1) 4 1#32).writeLE (initAt 1) 4 0#32).mem = [] := by decide

/-! ## Witnesses: the hypotheses of each statement, met together by one state and its operands

`witness_X` belongs to the statement `Obligations.X`; a witness of several clauses takes the values at the edges of their
ranges. -/

theorem witness_DecodeInvertsEncode : WellFormed (.hashReentrant 0) ∧ WellFormed (.ctxInit 255) ∧ WellFormed .outEncode := by
  decide

theorem witness_EncodeInvertsDecode : decode 0x00FF0301#32 = .ok (.hashGrowing 255) := by decide

theorem witness_IllegalWordsOnlyReport :
    (onBus State.reset [.write 0 0 4 0x000000FF#32]).bus = .write 0 State.reset.cfg.base 4 0x000000FF#32 :: [] ∧
    decode 0x000000FF#32 = .error .reservedOp := by decide

theorem witness_StepRunsTheDecodedCommand :
    (onBus State.reset [.write 0 0 4 0x00010002#32]).bus = .write 0 State.reset.cfg.base 4 0x00010002#32 :: [] ∧
    decode 0x00010002#32 = .ok (.ctxInit 1) := by decide

theorem witness_EngineWaitsForTheNextAccess : State.reset.bus = [] := by decide

theorem witness_CtxInitZeroesAFreshSlot : 3 < State.reset.cfg.nCtx ∧ State.reset.initWord 3 = 0#32 := by decide

theorem witness_CtxInitOtherwiseOnlyReports :
    (3 < State.reset.cfg.nCtx ∧ (State.reset.writeLE (initAt 3) 4 1#32).initWord 3 ≠ 0#32) ∧
    State.reset.cfg.nCtx ≤ 4 := by decide

theorem witness_CtxInitIsIdempotent :
    ∃ t u : State, exec (.ctxInit 1) State.reset = .next t ∧ exec (.ctxInit 1) t = .next u :=
  have ⟨t, ht⟩ := exec_answers (.ctxInit 1) State.reset
  have ⟨u, hu⟩ := exec_answers (.ctxInit 1) t
  ⟨t, u, ht, hu⟩

theorem witness_SaltDecodeResult :
    (inputs [] ab).saltPresent = true ∧ 2 ≤ (inputs [] ab).regs.saltLen.toNat ∧
    decode6 ((inputs [] ab).byteAt 0x1800) = some 38#6 ∧ decode6 ((inputs [] ab).byteAt 0x1801) = some 39#6 := by decide

/-- One state for each clause: no salt, `$` alone, one character, and a character outside the alphabet in either place. -/
theorem witness_SaltDecodeFailsInOrder :
    State.reset.saltPresent = false ∧
    ((inputs [] [0x24#8]).saltPresent = true ∧ 1 ≤ (inputs [] [0x24#8]).regs.saltLen.toNat ∧
      (inputs [] [0x24#8]).byteAt 0x1800 = 0x24#8) ∧
    ((inputs [] [0x61#8]).saltPresent = true ∧ (inputs [] [0x61#8]).byteAt 0x1800 ≠ 0x24#8 ∧
      (inputs [] [0x61#8]).regs.saltLen.toNat < 2) ∧
    ((inputs [] [0x21#8, 0x61#8]).byteAt 0x1800 ≠ 0x24#8 ∧ decode6 ((inputs [] [0x21#8, 0x61#8]).byteAt 0x1800) = none) ∧
    ((inputs [] [0x61#8, 0x21#8]).byteAt 0x1800 ≠ 0x24#8 ∧ decode6 ((inputs [] [0x61#8, 0x21#8]).byteAt 0x1801) = none) := by
  decide

theorem witness_Encode6Result :
    (State.reset.setRegs (Regs.reset.setEncArg 63#32)).regs.encArg.toNat ≤ 63 ∧
    63 < (State.reset.setRegs (Regs.reset.setEncArg 64#32)).regs.encArg.toNat := by decide

theorem witness_AlphabetAndItsInverse : decode6 0x7A#8 = some 63#6 := by decide

theorem witness_NumericSaltIsABijection :
    decode6 0x7A#8 = some 63#6 ∧ decode6 0x2E#8 = some 0#6 ∧ saltNumber 63#6 0#6 = 63#12 := by decide

theorem witness_KeyDeriveResult :
    (State.reset.setRegs ((Regs.reset.setArgs 1#2).setPassLen 511#32)).passPresent = true ∧
    (State.reset.setRegs ((Regs.reset.setArgs 1#2).setPassLen 511#32)).regs.passLen.toNat < 512 := by decide

theorem witness_KeyDeriveFailsInOrder :
    State.reset.passPresent = false ∧
    (State.reset.setRegs ((Regs.reset.setArgs 1#2).setPassLen 512#32)).passPresent = true ∧
    512 ≤ (State.reset.setRegs ((Regs.reset.setArgs 1#2).setPassLen 512#32)).regs.passLen.toNat := by decide

/-- V-KEY-5's two passphrases. -/
theorem witness_KeyIgnoresBit7AndTheTail :
    (inputs [0x61#8, 0x62#8, 0x63#8] []).passPresent = true ∧ (inputs [0xE1#8, 0x62#8, 0x63#8] []).passPresent = true ∧
    (inputs [0x61#8, 0x62#8, 0x63#8] []).regs.passLen.toNat < 512 ∧
    (inputs [0xE1#8, 0x62#8, 0x63#8] []).regs.passLen.toNat < 512 ∧
    (∀ i, i < 8 → ((inputs [0x61#8, 0x62#8, 0x63#8] []).keySource i).extractLsb' 0 7 =
      ((inputs [0xE1#8, 0x62#8, 0x63#8] []).keySource i).extractLsb' 0 7) ∧
    (after (exec .keyDerive (inputs [0x61#8, 0x62#8, 0x63#8] []))).isSome = true ∧
    (after (exec .keyDerive (inputs [0xE1#8, 0x62#8, 0x63#8] []))).isSome = true := by decide

/-- V-DIG-1's and V-DIG-2's keys, equal but for the parity bits. -/
theorem witness_DigestIgnoresParityBits : ∀ n, n < 64 → n % 8 ≠ 0 →
    (0xE0C2E6E6EEDEE4C8#64).getLsbD n = (0xE1C3E7E7EFDFE5C9#64).getLsbD n := by decide

theorem witness_ZeroKeyIsWeak : 0#48 ∈ Des.keySchedule 0#64 := by decide +kernel

/-- Acceptable inputs, for the four statements of a successful HASH and for `PipelineEqualsHash`, with slots 1 and 3. -/
theorem witness_HashWritesTheString :
    (inputs password ab).firstHashError = none ∧ decode6 ((inputs password ab).saltByte 0) = some 38#6 ∧
    decode6 ((inputs password ab).saltByte 1) = some 39#6 ∧
    1 ≤ 1 ∧ 1 < (inputs password ab).cfg.nCtx ∧ 1 ≤ 3 ∧ 3 < (inputs password ab).cfg.nCtx := by decide

/-- An admitted slot with unacceptable and with acceptable inputs: the draw's clauses meet no other condition, and either
draw may be the oracle's (the draw is a free value, so no state can fix it). -/
theorem witness_HashGrowingFollowsTheDraw :
    1 ≤ 1 ∧ 1 < (inputs password [0x21#8, 0x40#8]).cfg.nCtx ∧
    (inputs password [0x21#8, 0x40#8]).firstHashError = some .invalidSalt ∧
    1 ≤ 3 ∧ 3 < (inputs password ab).cfg.nCtx ∧ (inputs password ab).firstHashError = none ∧
    decode6 ((inputs password ab).saltByte 0) = some 38#6 ∧ decode6 ((inputs password ab).saltByte 1) = some 39#6 ∧
    (Config.allocDraw 0 = true ∨ Config.allocDraw 0 = false) :=
  ⟨by decide, by decide, by decide, by decide, by decide, by decide, by decide, by decide,
    by cases Config.allocDraw 0 <;> simp⟩

/-- The same with the smallest CTX_SIZE of the sized mode. -/
theorem witness_HashSizedWritesTheString :
    33280 ≤ ((inputs password ab).setRegs ((inputs password ab).regs.setCtxSize 33280#32)).regs.ctxSize.toNat ∧
    ((inputs password ab).setRegs ((inputs password ab).regs.setCtxSize 33280#32)).firstHashError = none ∧
    decode6 (((inputs password ab).setRegs ((inputs password ab).regs.setCtxSize 33280#32)).saltByte 0) = some 38#6 ∧
    decode6 (((inputs password ab).setRegs ((inputs password ab).regs.setCtxSize 33280#32)).saltByte 1) = some 39#6 ∧
    1 ≤ 3 ∧ 3 < ((inputs password ab).setRegs ((inputs password ab).regs.setCtxSize 33280#32)).cfg.nCtx := by decide

theorem witness_HashFailureLeavesTheToken :
    (inputs password [0x21#8, 0x40#8]).firstHashError = some .invalidSalt ∧
    ((inputs password [0x21#8, 0x40#8]).resolveContext .reentrant 1).toOption = some 1 ∧
    ((inputs password [0x21#8, 0x40#8]).resolveContext .shared 0).toOption = some 0 := by decide

theorem witness_HashRefusesTheNullContext :
    HashMode.growing ≠ .shared ∧ (0 = 0 ∨ State.reset.cfg.nCtx ≤ 0) ∧ (4 = 0 ∨ State.reset.cfg.nCtx ≤ 4) := by decide

theorem witness_HashSizedChecksTheSize :
    1 ≤ 3 ∧ 3 < State.reset.cfg.nCtx ∧
    (State.reset.setRegs (Regs.reset.setCtxSize 33279#32)).regs.ctxSize.toNat < 33280 ∧
    33280 ≤ (State.reset.setRegs (Regs.reset.setCtxSize 33280#32)).regs.ctxSize.toNat := by decide

/-- A HASH that resolves its slot and one that does not. -/
theorem witness_EveryHashScrubsItsSlot :
    (∃ t, exec (hashOf .reentrant 1) State.reset = .next t) ∧ (State.reset.resolveContext .reentrant 1).toOption = some 1 ∧
    (∃ t, exec (hashOf .reentrant 0) State.reset = .next t) ∧ (State.reset.resolveContext .reentrant 0).toOption = none :=
  ⟨exec_answers _ _, by decide, exec_answers _ _, by decide⟩

/-- Two successful HASHes, of slot 0 and of slot 1. -/
theorem witness_HashIsDeterministic : ∃ t t' : State,
    (inputs password ab).regs.args = 3#2 ∧ 2 ≤ (inputs password ab).regs.saltLen.toNat ∧
    (inputs password ab).regs.passLen.toNat < 512 ∧
    exec (hashOf .shared 0) (inputs password ab) = .next t ∧ exec (hashOf .reentrant 1) (inputs password ab) = .next t' ∧
    t.regs.ok = true ∧ t'.regs.ok = true := by
  have he : (inputs password ab).firstHashError = none := by decide
  have h0 : decode6 ((inputs password ab).saltByte 0) = some 38#6 := by decide
  have h1 : decode6 ((inputs password ab).saltByte 1) = some 39#6 := by decide
  have hr : ∀ m c, (inputs password ab).resolveContext m c = .ok (slotOf m c) → m ≠ .growing →
      ∃ t, exec (hashOf m c) (inputs password ab) = .next t ∧ t.regs.ok = true := by
    intro m c h hm
    refine ⟨_, exec_hashOf _ m c, ?_⟩
    have ha : (inputs password ab).afterResolve m c = inputs password ab := by
      unfold State.afterResolve
      rw [if_neg fun hx => hm hx.1]
    rw [State.hash_of_ok h, ha, (State.hashOn_ok _ (slotOf m c) _ _ he h0 h1).1.1]
  obtain ⟨t, ht, hok⟩ := hr .shared 0 rfl (by decide)
  obtain ⟨t', ht', hok'⟩ := hr .reentrant 1 (by decide) (by decide)
  exact ⟨t, t', by decide, by decide, by decide, ht, ht', hok, hok'⟩

theorem witness_DistinctSlotsAreIsolated :
    (∃ t, exec (.ctxInit 3) State.reset = .next t) ∧
    ∃ t, exec (.hashSized 3) State.reset = .next t ∧ hashOf .sized 3 = .hashSized 3 ∧ slotOf .sized 3 = 3 :=
  have ⟨t, ht⟩ := exec_answers (.hashSized 3) State.reset
  ⟨exec_answers _ _, t, ht, rfl, rfl⟩

theorem witness_HashIgnoresComponentRegisters : ∃ t, exec (hashOf .growing 3) State.reset = .next t := exec_answers _ _

theorem witness_ComponentCommandFrames :
    Instr.digest ∈ [Instr.saltDecode, .encode6, .keyDerive, .digest, .outEncode] ∧
    ∃ t, exec .digest State.reset = .next t := ⟨by decide, exec_answers _ _⟩

theorem witness_EveryCommandReportsItsStatus : (3#32 ≠ 0#32) ∧ ∃ t, runCommand 3#32 State.reset = .next t :=
  ⟨by decide, runCommand_answers _ _⟩

theorem witness_NoCommandReadsTheStatus : Instr.hashShared ≠ .nop := by decide

theorem witness_CommandsNeverWriteTheirInputs : ∃ t, exec .hashShared State.reset = .next t := exec_answers _ _

/-- Legal parameters, and an access at the end of each range of the map. -/
theorem witness_AdmittedAccesses :
    Config.default.Legal ∧ admitAccess Config.default 0xFC 4 = .ok 0xFC ∧ admitAccess Config.default 0x11FF 1 = .ok 0x11FF ∧
    admitAccess Config.default 0x180E 2 = .ok 0x180E ∧ admitAccess Config.default 0x10000 4 = .ok 0x10000 ∧
    admitAccess Config.default 0x481FC 4 = .ok 0x481FC := by decide

/-- The last row of the statement's table, read as the first access; the rows of CMD and RESULT; and a read of storage. -/
theorem witness_ReadsHaveNoSideEffect :
    (onBus State.reset [.read 0 0x04C 4]).bus = .read 0 0x04C 4 :: [] ∧
    admitAccess (onBus State.reset [.read 0 0x04C 4]).cfg 0x04C 4 = .ok 0x04C ∧
    (onBus State.reset [.read 0 0x04C 4]).bus = .read 0 (State.reset.cfg.base + 0x04C) 4 :: [] ∧
    State.reset.readReg .config = BitVec.ofNat 32 (State.reset.cfg.nCtx % 512) ∧
    (onBus State.reset [.read 0 0x000 4]).bus = .read 0 (State.reset.cfg.base + 0x000) 4 :: [] ∧
    State.reset.readReg .cmd = 0#32 ∧
    (onBus (State.reset.setRegs (Regs.reset.setStatus true 0#4)) [.read 0 0x004 4]).bus =
      .read 0 (State.reset.cfg.base + 0x004) 4 :: [] ∧
    (State.reset.setRegs (Regs.reset.setStatus true 0#4)).readReg .result = 1#32 ∧
    (onBus State.reset [.read 0 0x180E 2]).bus = .read 0 0x180E 2 :: [] ∧
    admitAccess State.reset.cfg 0x180E 2 = .ok 0x180E ∧ 0x100 ≤ 0x180E := by decide

theorem witness_StorageWriteThenRead :
    State.reset.cfg.Legal ∧ admitAccess State.reset.cfg 0x481FC 4 = .ok 0x481FC ∧ 0x100 ≤ 0x481FC ∧ 3 < 4 ∧
    (onBus State.reset [.write 0 0x481FC 4 1#32, .read 1 (0x481FC + 3) 1]).bus =
      .write 0 0x481FC 4 1#32 :: .read 1 (0x481FC + 3) 1 :: [] := by decide

/-- The three widths. -/
theorem witness_StorageWordReadsBack :
    admitAccess State.reset.cfg 0x1000 4 = .ok 0x1000 ∧ 0x100 ≤ 0x1000 ∧
    (onBus State.reset [.write 0 0x1000 4 7#32, .read 1 0x1000 4]).bus = .write 0 0x1000 4 7#32 :: .read 1 0x1000 4 :: [] ∧
    admitAccess State.reset.cfg 0x180E 2 = .ok 0x180E ∧ 0x100 ≤ 0x180E ∧
    (onBus State.reset [.write 0 0x180E 2 7#32, .read 1 0x180E 2]).bus = .write 0 0x180E 2 7#32 :: .read 1 0x180E 2 :: [] ∧
    admitAccess State.reset.cfg 0x481FF 1 = .ok 0x481FF ∧ 0x100 ≤ 0x481FF ∧
    (onBus State.reset [.write 0 0x481FF 1 7#32, .read 1 0x481FF 1]).bus =
      .write 0 0x481FF 1 7#32 :: .read 1 0x481FF 1 :: [] := by decide

/-- An RW row, the R rows of RESULT and CONFIG, in the statement's own table. -/
theorem witness_RegisterWritesKeepImplementedBits :
    (∀ row ∈ [(RegName.args, 0x00C, 3#32), (.result, 0x004, 0#32), (.config, 0x04C, 0#32)],
      row ∈ [(RegName.result, 0x004, 0#32), (.err, 0x008, 0#32), (.args, 0x00C, 3#32),
        (.passLen, 0x010, 0xFFFFFFFF#32), (.saltLen, 0x014, 0xFFFFFFFF#32), (.ctxSize, 0x018, 0xFFFFFFFF#32),
        (.encArg, 0x01C, 0xFFFFFFFF#32), (.encRes, 0x020, 0#32), (.saltNum, 0x024, 0xFFF#32), (.saltCh, 0x028, 0xFFFF#32),
        (.keyLo, 0x02C, 0xFFFFFFFF#32), (.keyHi, 0x030, 0xFFFFFFFF#32), (.digLo, 0x034, 0xFFFFFFFF#32),
        (.digHi, 0x038, 0xFFFFFFFF#32), (.outW0, 0x03C, 0#32), (.outW1, 0x040, 0#32), (.outW2, 0x044, 0#32),
        (.outW3, 0x048, 0#32), (.config, 0x04C, 0#32)]) ∧
    (onBus State.reset [.write 0 0x00C 4 0xFFFFFFFF#32]).bus =
      .write 0 (State.reset.cfg.base + 0x00C) 4 0xFFFFFFFF#32 :: [] ∧
    (onBus State.reset [.write 0 0x004 4 0xFFFFFFFF#32]).bus =
      .write 0 (State.reset.cfg.base + 0x004) 4 0xFFFFFFFF#32 :: [] ∧
    (onBus State.reset [.write 0 0x04C 4 0xFFFFFFFF#32]).bus =
      .write 0 (State.reset.cfg.base + 0x04C) 4 0xFFFFFFFF#32 :: [] := by decide

theorem witness_ReservedOffsetsAreInert :
    0x50 ≤ 0xFC ∧ 0xFC < 0x100 ∧ 0xFC % 4 = 0 ∧
    (onBus State.reset [.read 0 0xFC 4]).bus = .read 0 (State.reset.cfg.base + 0xFC) 4 :: [] ∧
    (onBus State.reset [.write 0 0x50 4 1#32]).bus = .write 0 (State.reset.cfg.base + 0x50) 4 1#32 :: [] := by decide

theorem witness_OnlyCmdWritesExecute :
    (onBus State.reset [.write 0 0x00C 4 3#32]).bus = .write 0 0x00C 4 3#32 :: [] ∧
    BusEvent.write 0 0x00C 4 3#32 ≠ .reset ∧
    (∀ host n v, BusEvent.write 0 0x00C 4 3#32 ≠ .write host State.reset.cfg.base n v) ∧
    (after (step (onBus State.reset [.write 0 0x00C 4 3#32]))).isSome = true :=
  ⟨by decide, by decide, fun _ _ _ h => by injection h with _ h; exact absurd h (by decide), by decide⟩

theorem witness_EngineDoesNotSeeTheHost :
    (after (step (onBus State.reset [.read 0 0x1000 4]))).isSome = true ∧
    (after (step (onBus State.reset [.write 0 0x000 4 0x01#32]))).isSome = true := by decide +kernel

theorem witness_ResetEventState : State.reset.cfg.Legal ∧ (onBus State.reset [.reset]).bus = .reset :: [] := by decide

theorem witness_EveryStepKeepsTheInvariant :
    (onBus State.reset [.write 0 0 4 0x01#32]).Inv ∧
    (after (step (onBus State.reset [.write 0 0 4 0x01#32]))).isSome = true := by decide +kernel

theorem witness_ResetMeetsTheInvariant : Config.default.Legal := by decide

theorem witness_CleanRunsNeverStop : (onBus State.reset [.write 0 0 4 0x01#32, .reset, .read 1 0x481FF 1]).BusClean := by
  decide

theorem witness_ParametersAreConstant :
    (after (step (onBus State.reset [.reset]))).isSome = true ∧ State.reset.cfg.Legal := by decide

theorem witness_SetpassStoresThePassphrase :
    password.length ≤ 512 ∧
    (onBus State.reset (setpass Config.default 2 password)).bus = setpass State.reset.cfg 2 password := by decide

end Sys2Proof.Tests
end

namespace Sys2Proof.Machine

/-! ## Register accesses (10_state.md R21, R35, R36) -/

theorem regAt_regOffset (r : RegName) : regAt (regOffset r) = some r := by cases r <;> rfl

theorem regOffset_lt (r : RegName) : regOffset r < 0x100 := by cases r <;> decide

theorem regOffset_aligned (r : RegName) : regOffset r % 4 = 0 := by cases r <;> rfl

theorem regOffset_eq_zero_iff (r : RegName) : regOffset r = 0 ↔ r = .cmd := by cases r <;> decide

/-- A reserved offset has no register (R36). -/
theorem regAt_reserved {o : Nat} (h : 0x50 ≤ o) : regAt o = none := by
  refine List.find?_eq_none.2 fun r _ => ?_
  have hr : regOffset r < 0x50 := by cases r <;> decide
  simp only [beq_iff_eq]
  omega

theorem State.hostRead_register (s : State) (r : RegName) (n : Nat) : s.hostRead (regOffset r) n = s.readReg r := by
  simp only [State.hostRead, regOffset_lt, if_true, regAt_regOffset]

theorem State.hostWrite_register (s : State) (r : RegName) (n : Nat) (v : Word) :
    s.hostWrite (regOffset r) n v = s.setRegs (writeRegs s.regs r v) := by
  simp only [State.hostWrite, regOffset_lt, if_true, regAt_regOffset]

theorem State.hostRead_reserved (s : State) {o : Nat} (n : Nat) (h : 0x50 ≤ o) (h' : o < 0x100) :
    s.hostRead o n = 0#32 := by
  simp only [State.hostRead, h', if_true, regAt_reserved h]

theorem State.hostWrite_reserved (s : State) {o : Nat} (n : Nat) (v : Word) (h : 0x50 ≤ o) (h' : o < 0x100) :
    s.hostWrite o n v = s := by
  simp only [State.hostWrite, h', if_true, regAt_reserved h]

/-- Everything a host's write can do: write one register, nothing at a reserved offset, or bytes of storage (R67). -/
theorem State.hostWrite_cases (s : State) (o n : Nat) (v : Word) :
    (∃ r, s.hostWrite o n v = s.setRegs (writeRegs s.regs r v)) ∨ s.hostWrite o n v = s ∨
    (0x100 ≤ o ∧ s.hostWrite o n v = s.writeLE o n v) := by
  unfold State.hostWrite
  split
  · split
    · exact .inl ⟨_, rfl⟩
    · exact .inr (.inl rfl)
  · exact .inr (.inr ⟨by omega, rfl⟩)

/-- CONFIG reads N_CTX in its nine bits (R30). -/
theorem State.readReg_config (s : State) : s.readReg .config = BitVec.ofNat 32 (s.cfg.nCtx % 512) := by
  apply BitVec.eq_of_toNat_eq
  simp only [State.readReg, BitVec.toNat_setWidth, BitVec.toNat_ofNat]

/-- With legal parameters CONFIG reads N_CTX (R30). -/
theorem State.readReg_config_of_legal {s : State} (h : s.cfg.Legal) : (s.readReg .config).toNat = s.cfg.nCtx := by
  obtain ⟨-, hn, -⟩ := h
  rw [State.readReg_config, BitVec.toNat_ofNat]
  omega

/-- A host's write reaches neither the status nor the results of commands that are read-only (R21, R35). -/
theorem writeRegs_readOnly (r : Regs) (n : RegName) (v : Word) :
    (writeRegs r n v).ok = r.ok ∧ (writeRegs r n v).code = r.code ∧ (writeRegs r n v).encRes = r.encRes ∧
    (writeRegs r n v).outW0 = r.outW0 ∧ (writeRegs r n v).outW1 = r.outW1 ∧ (writeRegs r n v).outW2 = r.outW2 ∧
    (writeRegs r n v).outW3 = r.outW3 := by
  cases n <;> exact ⟨rfl, rfl, rfl, rfl, rfl, rfl, rfl⟩

/-- The bits of a register that a host's write reaches; 0 for CMD and the R registers (R21, R35). -/
def writeMask : RegName → Word
  | .cmd | .result | .err | .encRes | .outW0 | .outW1 | .outW2 | .outW3 | .config => 0#32
  | .args => 3#32
  | .saltNum => 0xFFF#32
  | .saltCh => 0xFFFF#32
  | .passLen | .saltLen | .ctxSize | .encArg | .keyLo | .keyHi | .digLo | .digHi => BitVec.allOnes 32

/-- Zero-extending the low `n` bits of a word masks it. -/
theorem setWidth_extractLsb'_eq_and (v : Word) (n : Nat) :
    (v.extractLsb' 0 n).setWidth 32 = v &&& BitVec.ofNat 32 (2 ^ n - 1) := by
  apply BitVec.eq_of_getLsbD_eq
  intro i hi
  simp only [BitVec.getLsbD_setWidth, BitVec.getLsbD_extractLsb', BitVec.getLsbD_and, BitVec.getLsbD_ofNat,
    Nat.testBit_two_pow_sub_one, hi, decide_true, Bool.true_and, Nat.zero_add, Bool.and_comm]

/-- A register reads back the bits that a write reaches (R35). -/
theorem State.readReg_writeRegs_same (s : State) (r : RegName) (v : Word) :
    (s.setRegs (writeRegs s.regs r v)).readReg r =
      if writeMask r = 0#32 then s.readReg r else v &&& writeMask r := by
  cases r
  case args => exact setWidth_extractLsb'_eq_and v 2
  case saltNum => exact setWidth_extractLsb'_eq_and v 12
  case saltCh => exact setWidth_extractLsb'_eq_and v 16
  case passLen | saltLen | ctxSize | encArg | keyLo | keyHi | digLo | digHi => exact BitVec.and_allOnes.symm
  all_goals rfl

/-- A write to one register leaves what every other one reads (R35). -/
theorem State.readReg_writeRegs_ne (s : State) {r r' : RegName} (v : Word) (h : r' ≠ r) :
    (s.setRegs (writeRegs s.regs r v)).readReg r' = s.readReg r' := by
  cases r <;> cases r' <;> simp [State.readReg, writeRegs] at h ⊢

/-! ## Steps of a register access -/

/-- An admitted read answers and does nothing else (20_memory.md R67, R71). -/
theorem step_read {s : State} {host addr n o : Nat} {rest : List BusEvent} (hb : s.bus = .read host addr n :: rest)
    (ha : admitAccess s.cfg addr n = .ok o) : step s = .next (s.complete rest (.readData host (s.hostRead o n))) := by
  simp only [step, State.nextAction, hb, State.readAction, ha]

theorem step_read_register {s : State} {host : Nat} {r : RegName} {rest : List BusEvent}
    (hb : s.bus = .read host (s.cfg.base + regOffset r) 4 :: rest) :
    step s = .next (s.complete rest (.readData host (s.readReg r))) := by
  rw [step_read hb (admit_page s.cfg (regOffset_lt r) (regOffset_aligned r)), State.hostRead_register]

theorem step_write_register {s : State} {host : Nat} {r : RegName} {v : Word} {rest : List BusEvent} (hr : r ≠ .cmd)
    (hb : s.bus = .write host (s.cfg.base + regOffset r) 4 v :: rest) :
    step s = .next ((s.complete rest (.writeDone host)).setRegs (writeRegs s.regs r v)) := by
  rw [step_write hb (admit_page s.cfg (regOffset_lt r) (regOffset_aligned r)) (mt (regOffset_eq_zero_iff r).1 hr),
    State.hostWrite_register, State.complete_regs]

/-- Settles O46: an admitted access answers what `hostRead` reads, which is a register of the page or bytes of storage. -/
theorem readsHaveNoSideEffect : Obligations.ReadsHaveNoSideEffect := by
  refine ⟨fun s host addr n o rest hb ha => step_read hb ha, fun s host rest r o word hrow hb => ?_,
    fun s host addr n o rest hb ha ho => ?_⟩
  · -- The table is `allRegs`, each with its offset and what it reads.
    rw [← s.readReg_config] at hrow
    have hrow' : (r, o, word) ∈ allRegs.map (fun r => (r, regOffset r, s.readReg r)) := hrow
    obtain ⟨_, -, ⟨⟩⟩ := List.mem_map.1 hrow'
    exact ⟨rfl, step_read_register hb⟩
  · have hn : n ≤ 4 := by obtain ⟨-, h, -⟩ := admit_ok ha; omega
    refine ⟨s.hostRead o n, step_read hb ha, fun k hk => ?_⟩
    rw [State.hostRead, if_neg (by omega), State.byte_readLE s o n k hn hk]

/-- Settles O49: the register reads back its writable bits, and every other register reads as before. -/
theorem registerWritesKeepImplementedBits : Obligations.RegisterWritesKeepImplementedBits := by
  intro s host v rest r o mask hrow hb
  -- The table is `allRegs` without CMD, each with its offset and its mask.
  have hrow' : (r, o, mask) ∈ allRegs.tail.map (fun r => (r, regOffset r, writeMask r)) := hrow
  obtain ⟨_, hmem, ⟨⟩⟩ := List.mem_map.1 hrow'
  have hcmd : r ≠ .cmd := by rintro rfl; exact absurd hmem (by decide)
  exact ⟨_, step_write_register hcmd hb, rfl, rfl, rfl, rfl, rfl, rfl, State.readReg_writeRegs_same .., fun r' hne =>
    State.readReg_writeRegs_ne _ v hne⟩

/-- Settles O50: no register stands at such an offset. -/
theorem reservedOffsetsAreInert : Obligations.ReservedOffsetsAreInert := by
  intro s host o v rest h50 h100 h4
  have ha : admitAccess s.cfg (s.cfg.base + o) 4 = .ok o := admit_page s.cfg h100 h4
  refine ⟨fun hb => ?_, fun hb => ?_⟩
  · rw [step_read hb ha, State.hostRead_reserved s 4 h50 h100]
    rfl
  · rw [step_write hb ha (by omega), State.hostWrite_reserved _ 4 v h50 h100]
    rfl

/-- Settles O51: such an access is a read, or a write that reaches no read-only register. -/
theorem onlyCmdWritesExecute : Obligations.OnlyCmdWritesExecute := by
  intro s t ev rest hb hreset hcmd hstep
  rcases step_cases hstep with ⟨hb', -⟩ | ⟨_, hb', -⟩ | ⟨_, _, _, _, _, -, -, rfl⟩ | ⟨host, _, n, o, v, rest', -, -, -, rfl⟩ |
    ⟨host, n, w, _, hb', -⟩
  · cases hb.symm.trans hb'
  · cases hb.symm.trans hb'
    exact absurd rfl hreset
  · simp
  · rcases State.hostWrite_cases (s.complete rest' (.writeDone host)) o n v with ⟨r, h⟩ | h | ⟨-, h⟩
    · simp [h, writeRegs_readOnly]
    · simp [h]
    · simp [h]
  · cases hb.symm.trans hb'
    exact absurd rfl (hcmd host n w)

/-- Settles O6, by `step_cmd`. -/
theorem stepRunsTheDecodedCommand : Obligations.StepRunsTheDecodedCommand := by
  intro s host w rest i hb hd
  rw [step_cmd hb]
  simp only [runCommand, hd, State.complete]

/-! ## Reset (70_reset_and_hazards.md R291) -/

/-- The bytes of the INIT words, slot by slot (10_state.md R31). -/
theorem Memory.isInit_iff (a : Nat) : Memory.isInit a = true ↔ ∃ c k, k < 4 ∧ a = initAt c + k := by
  simp only [Memory.isInit, Bool.and_eq_true, decide_eq_true_iff, initAt, slotAt]
  constructor
  · rintro ⟨⟨h1, h2⟩, h3⟩
    exact ⟨a / 0x10000 - 1, a % 0x10000 - 0x180, by omega, by omega⟩
  · rintro ⟨c, k, hk, rfl⟩
    omega

/-- After a reset a byte of storage reads 0 in INIT and as its draw elsewhere (10_state.md R44, R45). -/
theorem State.byteAt_resetWith (cfg : Config) (epoch n : Nat) (bus : List BusEvent) (a : Nat) :
    (State.resetWith cfg epoch n bus).byteAt a = if Memory.isInit a then 0#8 else Config.resetDraw epoch a := by
  simp only [State.byteAt, State.resetWith, Memory.find, Memory.unlisted, Memory.known, Option.getD_none]
  split <;> rfl

theorem State.initWord_resetWith (cfg : Config) (epoch n : Nat) (bus : List BusEvent) (c : Nat) :
    (State.resetWith cfg epoch n bus).initWord c = 0#32 := by
  have h0 : ∀ k, k < 4 → (State.resetWith cfg epoch n bus).byteAt (initAt c + k) = 0#8 := fun k hk => by
    rw [State.byteAt_resetWith, if_pos ((Memory.isInit_iff _).2 ⟨c, k, hk, rfl⟩)]
  have h00 : (State.resetWith cfg epoch n bus).byteAt (initAt c) = 0#8 := h0 0 (by decide)
  simp [State.initWord, State.readLE, leWord, List.range_succ, h0, h00]

/-- Every register but CONFIG reads 0 after a reset (10_state.md R43). -/
theorem State.readReg_resetWith (cfg : Config) (epoch n : Nat) (bus : List BusEvent) {r : RegName} (h : r ≠ .config) :
    (State.resetWith cfg epoch n bus).readReg r = 0#32 := by
  cases r <;> simp [State.readReg, State.resetWith, Regs.reset, resultWord, errWord] at h ⊢

/-- Settles O53: the state after the event is `State.resetWith` of the next epoch. -/
theorem resetEventState : Obligations.ResetEventState := by
  intro s rest hlegal hb
  refine ⟨s.resetEvent rest, by simp only [step, State.nextAction, hb], fun r hr => State.readReg_resetWith _ _ _ _ hr,
    State.readReg_config_of_legal hlegal, rfl, State.initWord_resetWith _ _ _ _, fun b hb => ?_, rfl, rfl⟩
  rw [State.resetEvent, State.byteAt_resetWith, if_neg]
  · rfl
  · rw [Memory.isInit_iff]
    rintro ⟨c, k, hk, h⟩
    exact hb c k hk h

/-- Any reset with legal parameters meets the invariant: storage is empty, and registers and hidden state are 0. -/
theorem State.resetWith_inv {cfg : Config} (epoch n : Nat) (bus : List BusEvent) (h : cfg.Legal) :
    (State.resetWith cfg epoch n bus).Inv :=
  ⟨h, rfl, rfl, rfl, fun _ => rfl, by show 0#4 ≤ 7#4; decide⟩

/-- Settles O55, by `State.resetWith_inv`. -/
theorem resetMeetsTheInvariant : Obligations.ResetMeetsTheInvariant :=
  ⟨State.resetWith_inv 0 0 [] (by decide), fun _ epoch n bus h => State.resetWith_inv epoch n bus h⟩

/-! ## How a command ends (60_exceptions.md R260, R262, R263) -/

/-- The two ends of a command that began its epilogue in `u`: success, or the report of an error.  HASH scrubs its slot
before (`State.failureEpilogue_some`). -/
inductive CommandEnd (u : State) : State → Prop
  | success : CommandEnd u u.successEpilogue
  | failure (e : ErrCode) (he : e ≠ .none) : CommandEnd u (u.failureEpilogue e none)

/-- The status that an epilogue leaves: hidden state 0 and OK with CODE 0, or not OK with a CODE of 1 to 7. -/
abbrev State.Reported (t : State) : Prop :=
  t.hidden = Datapath.zero ∧ ((t.regs.ok = true ∧ t.regs.code = 0#4) ∨
    (t.regs.ok = false ∧ 1 ≤ t.regs.code.toNat ∧ t.regs.code.toNat ≤ 7))

theorem ErrCode.value_range {e : ErrCode} (h : e ≠ .none) : 1 ≤ e.value.toNat ∧ e.value.toNat ≤ 7 := by
  cases e <;> simp [ErrCode.value] at h ⊢

theorem CommandEnd.reported {u t : State} (h : CommandEnd u t) : t.Reported := by
  cases h with
  | success =>
    rw [State.successEpilogue_eq]
    exact ⟨rfl, .inl ⟨rfl, rfl⟩⟩
  | failure e he =>
    rw [State.failureEpilogue_none]
    exact ⟨rfl, .inr ⟨rfl, ErrCode.value_range he⟩⟩

/-- A reported status is a legal one (10_state.md R22, R23). -/
theorem State.Reported.statusLegal {t : State} (h : t.Reported) : t.regs.StatusLegal := by
  obtain ⟨-, ⟨-, hc⟩ | ⟨hok, -, hc⟩⟩ := h
  · exact ⟨fun _ => hc, by rw [hc]; decide⟩
  · exact ⟨fun h => by simp [hok] at h, BitVec.le_def.2 hc⟩

/-! An error that a command raises is never the code of success. -/

theorem State.saltDecode_ne_none (s : State) : s.saltDecode ≠ .error .none := by
  unfold State.saltDecode saltOfChars
  repeat' split
  all_goals simp

theorem State.keyDerive_ne_none (s : State) : s.keyDerive ≠ .error .none := by
  unfold State.keyDerive
  repeat' split
  all_goals simp

theorem State.firstHashError_ne_none (s : State) : s.firstHashError ≠ some .none := by
  unfold State.firstHashError
  repeat' split
  all_goals simp

theorem State.hashInputs_ne_none (s : State) : s.hashInputs ≠ .error .none := by
  rw [State.hashInputs_eq]
  split
  · simp
  · next h =>
    intro he
    injection he with he
    exact s.firstHashError_ne_none (he ▸ h)
  · simp

theorem State.resolveContext_ne_none (s : State) (m : HashMode) (c : Nat) : s.resolveContext m c ≠ .error .none := by
  unfold State.resolveContext
  repeat' split
  all_goals simp

/-! ## What no command changes

A command stores only in slots and writes only status and result registers (10_state.md R26, R27, R29; 20_memory.md R61). -/

/-- The registers that the host sets up as inputs and no command computes. -/
structure Regs.SameInputs (r r' : Regs) : Prop where
  args : r'.args = r.args
  passLen : r'.passLen = r.passLen
  saltLen : r'.saltLen = r.saltLen
  ctxSize : r'.ctxSize = r.ctxSize
  encArg : r'.encArg = r.encArg

/-- What every part of a command keeps between the state it starts in and the state it leaves. -/
structure CommandFrame (s t : State) : Prop where
  cfg : t.cfg = s.cfg
  epoch : t.epoch = s.epoch
  bus : t.bus = s.bus
  reply : t.reply = s.reply
  inputs : s.regs.SameInputs t.regs
  buffers : ∀ b, b < 0x10000 → t.byteAt b = s.byteAt b
  wf : Memory.wf s.mem = true → Memory.wf t.mem = true
  mapped : 1 ≤ s.cfg.nCtx → Memory.mapped s.cfg s.mem = true → Memory.mapped s.cfg t.mem = true

theorem CommandFrame.refl (s : State) : CommandFrame s s :=
  ⟨rfl, rfl, rfl, rfl, ⟨rfl, rfl, rfl, rfl, rfl⟩, fun _ _ => rfl, id, fun _ => id⟩

theorem CommandFrame.trans {s t u : State} (h : CommandFrame s t) (h' : CommandFrame t u) : CommandFrame s u where
  cfg := h'.cfg.trans h.cfg
  epoch := h'.epoch.trans h.epoch
  bus := h'.bus.trans h.bus
  reply := h'.reply.trans h.reply
  inputs := ⟨h'.inputs.args.trans h.inputs.args, h'.inputs.passLen.trans h.inputs.passLen,
    h'.inputs.saltLen.trans h.inputs.saltLen, h'.inputs.ctxSize.trans h.inputs.ctxSize,
    h'.inputs.encArg.trans h.inputs.encArg⟩
  buffers b hb := (h'.buffers b hb).trans (h.buffers b hb)
  wf := h'.wf ∘ h.wf
  mapped hn hm := h.cfg ▸ h'.mapped (h.cfg ▸ hn) (h.cfg ▸ h.mapped hn hm)

/-! ### Updates outside storage -/

theorem CommandFrame.setRegs (s : State) {r : Regs} (h : s.regs.SameInputs r) : CommandFrame s (s.setRegs r) := by
  refine ⟨by simp, by simp, by simp, by simp, by simpa using h, by simp, ?_, ?_⟩ <;> simp

theorem CommandFrame.setHidden (s : State) (d : Datapath) : CommandFrame s (s.setHidden d) := by
  refine ⟨by simp, by simp, by simp, by simp, ?_, by simp, ?_, ?_⟩
  · exact ⟨rfl, rfl, rfl, rfl, rfl⟩
  all_goals simp

theorem CommandFrame.countDraw (s : State) : CommandFrame s s.countDraw := by
  refine ⟨by simp, by simp, by simp, by simp, ?_, by simp, ?_, ?_⟩
  · exact ⟨rfl, rfl, rfl, rfl, rfl⟩
  all_goals simp

theorem CommandFrame.afterResolve (s : State) (m : HashMode) (c : Nat) : CommandFrame s (s.afterResolve m c) := by
  unfold State.afterResolve
  split
  · exact .countDraw s
  · exact .refl s

theorem CommandEnd.frame {u t : State} (h : CommandEnd u t) : CommandFrame u t := by
  have hstatus : ∀ ok code, CommandFrame u (u.setRegs (u.regs.setStatus ok code)) := fun _ _ =>
    .setRegs u ⟨rfl, rfl, rfl, rfl, rfl⟩
  cases h with
  | success => exact (hstatus _ _).trans (.setHidden _ _)
  | failure e he => exact (hstatus _ _).trans (.setHidden _ _)

/-! ### Updates of one slot -/

/-- The bytes of a slot that exists are mapped, and no registers (20_memory.md R61, R65). -/
theorem regionOf_within_slot {cfg : Config} {c b : Nat} (hc : c < cfg.nCtx) (h : slotAt c 0 ≤ b)
    (h' : b < slotAt c 0x8200) : ∃ r, regionOf cfg b = some r ∧ r ≠ .page := by
  obtain ⟨j, rfl⟩ : ∃ j, b = slotAt c j := ⟨b - slotAt c 0, by simp only [slotAt] at *; omega⟩
  exact ⟨.slot c, regionOf_slot cfg hc (by simp only [slotAt] at h'; omega), by simp⟩

section
variable {s : State} {c : Nat} (hc : 1 ≤ s.cfg.nCtx → c < s.cfg.nCtx)
include hc

theorem CommandFrame.fillBytes {j n : Nat} (hj : j + n ≤ 0x8200) (v : Byte) :
    CommandFrame s (s.fillBytes (slotAt c j) n v) where
  cfg := by simp
  epoch := by simp
  bus := by simp
  reply := by simp
  inputs := by rw [State.fillBytes_regs]; exact ⟨rfl, rfl, rfl, rfl, rfl⟩
  buffers b hb := by
    rw [State.byteAt_fillBytes, if_neg (by simp only [slotAt]; omega)]
  wf h := Memory.wf_fill _ _ _ h
  mapped hn hm := Memory.mapped_fill _ _ _ hm fun b h1 h2 =>
    regionOf_within_slot (hc hn) (by simp only [slotAt] at *; omega) (by simp only [slotAt] at *; omega)

theorem CommandFrame.writeBytes {j : Nat} {bs : List Byte} (hj : j + bs.length ≤ 0x8200) :
    CommandFrame s (s.writeBytes (slotAt c j) bs) where
  cfg := by simp
  epoch := by simp
  bus := by simp
  reply := by simp
  inputs := by rw [State.writeBytes_regs]; exact ⟨rfl, rfl, rfl, rfl, rfl⟩
  buffers b hb := by
    rw [State.byteAt_writeBytes, if_neg (by simp only [slotAt]; omega)]
  wf h := Memory.wf_write _ _ h
  mapped hn hm := Memory.mapped_write _ _ hm fun b h1 h2 =>
    regionOf_within_slot (hc hn) (by simp only [slotAt] at *; omega) (by simp only [slotAt] at *; omega)

theorem CommandFrame.scrub : CommandFrame s (s.scrub c) := .fillBytes hc (by decide) _

theorem CommandFrame.ensureInitialized : CommandFrame s (s.ensureInitialized c) := by
  unfold State.ensureInitialized
  split
  · exact (CommandFrame.fillBytes hc (by decide) _).trans (.writeBytes (by simpa using hc) (by simp [leBytes]))
  · exact .refl s

theorem CommandFrame.prologue : CommandFrame s (s.prologue c) :=
  (CommandFrame.ensureInitialized hc).trans (.writeBytes (by simpa using hc) (by simp))

theorem CommandFrame.writeResult (c0 c1 : Byte) : CommandFrame s (s.writeResult c c0 c1) :=
  .writeBytes hc (by simp [outString_length])

/-- HASH on a resolved slot stores only in that slot and then ends (44_hash_context.md R221). -/
theorem State.hashOn_ends : ∃ u, CommandEnd u (s.hashOn c) ∧ CommandFrame s u := by
  have hp := CommandFrame.prologue hc
  have hc' : 1 ≤ (s.prologue c).cfg.nCtx → c < (s.prologue c).cfg.nCtx := by rwa [hp.cfg]
  rw [State.hashOn_eq]
  split
  · next e he =>
    exact ⟨_, .failure e fun h => s.hashInputs_ne_none (h ▸ he), hp.trans (.scrub hc')⟩
  · next inp _ =>
    have hd := hp.trans (.setHidden (s.prologue c) (Datapath.run inp.key inp.salt.salt))
    have hw := hd.trans (.writeResult (by rwa [hd.cfg]) inp.salt.ch0 inp.salt.ch1)
    exact ⟨_, .success, hw.trans (.scrub (by rwa [hw.cfg]))⟩

end

/-! ### Every command -/

theorem State.hash_ends (s : State) (m : HashMode) (c : Nat) : ∃ u, CommandEnd u (s.hash m c) ∧ CommandFrame s u := by
  have hr := CommandFrame.afterResolve s m c
  cases hx : s.resolveContext m c with
  | error e =>
    rw [State.hash_of_error hx]
    exact ⟨_, .failure e fun h => s.resolveContext_ne_none m c (h ▸ hx), hr⟩
  | ok slot =>
    rw [State.hash_of_ok hx]
    obtain ⟨u, he, hu⟩ := State.hashOn_ends (s := s.afterResolve m c) (c := slot) (by
      rw [hr.cfg]
      exact (State.resolveContext_slot hx).2)
    exact ⟨u, he, hr.trans hu⟩

/-- Every command but NOP does its work within the frame and then ends in an epilogue. -/
theorem exec_ends (s : State) {i : Instr} (hi : i ≠ .nop) :
    ∃ u t, exec i s = .next t ∧ CommandEnd u t ∧ CommandFrame s u := by
  have hash : ∀ m c, ∃ u t, exec (hashOf m c) s = .next t ∧ CommandEnd u t ∧ CommandFrame s u := fun m c =>
    have ⟨u, h⟩ := s.hash_ends m c
    ⟨u, _, exec_hashOf s m c, h⟩
  cases i with
  | nop => exact absurd rfl hi
  | hashShared => exact hash .shared 0
  | hashReentrant c => exact hash .reentrant c
  | hashSized c => exact hash .sized c
  | hashGrowing c => exact hash .growing c
  | ctxInit c =>
    simp only [exec, execCtxInit]
    split
    · exact ⟨_, _, rfl, .failure .invalidArgument (by simp), .refl s⟩
    · exact ⟨_, _, rfl, .success, .ensureInitialized (by omega)⟩
  | saltDecode =>
    simp only [exec, execSaltDecode]
    split
    · next e he => exact ⟨_, _, rfl, .failure e fun h => s.saltDecode_ne_none (h ▸ he), .refl s⟩
    · exact ⟨_, _, rfl, .success, .setRegs s ⟨rfl, rfl, rfl, rfl, rfl⟩⟩
  | encode6 =>
    simp only [exec, execEncode6]
    split
    · exact ⟨_, _, rfl, .failure .invalidArgument (by simp), .refl s⟩
    · exact ⟨_, _, rfl, .success, .setRegs s ⟨rfl, rfl, rfl, rfl, rfl⟩⟩
  | keyDerive =>
    simp only [exec, execKeyDerive]
    split
    · next e he => exact ⟨_, _, rfl, .failure e fun h => s.keyDerive_ne_none (h ▸ he), .refl s⟩
    · exact ⟨_, _, rfl, .success, .setRegs s ⟨rfl, rfl, rfl, rfl, rfl⟩⟩
  | digest =>
    exact ⟨_, _, rfl, .success, (CommandFrame.setHidden s _).trans (.setRegs _ ⟨rfl, rfl, rfl, rfl, rfl⟩)⟩
  | outEncode => exact ⟨_, _, rfl, .success, .setRegs s ⟨rfl, rfl, rfl, rfl, rfl⟩⟩

theorem exec_frame {i : Instr} {s t : State} (h : exec i s = .next t) : CommandFrame s t := by
  by_cases hi : i = .nop
  · subst hi
    injection h with h
    exact h ▸ .refl s
  · obtain ⟨u, t', ht, he, hu⟩ := exec_ends s hi
    injection h.symm.trans ht with h
    exact h ▸ hu.trans he.frame

theorem exec_reported {i : Instr} {s t : State} (hi : i ≠ .nop) (h : exec i s = .next t) : t.Reported := by
  obtain ⟨u, t', ht, he, -⟩ := exec_ends s hi
  injection h.symm.trans ht with h
  exact h ▸ he.reported

/-- Settles O44: the two buffers lie below the slots. -/
theorem commandsNeverWriteTheirInputs : Obligations.CommandsNeverWriteTheirInputs := by
  intro s t i h
  have hf := exec_frame h
  obtain ⟨h1, h2, h3, h4, h5⟩ := hf.inputs
  exact ⟨fun j hj => hf.buffers _ (by simp only [passAt]; omega), fun j hj => hf.buffers _ (by simp only [saltAt]; omega),
    h1, h2, h3, h4, h5⟩

/-! ## Every CMD word (30_encoding.md R97, R103) -/

/-- A word is its five fields (30_encoding.md R91). -/
theorem word_eq_fields (w : Word) : w = rsv1Field w ++ ctxField w ++ rsv0Field w ++ modeField w ++ opField w := by
  apply BitVec.eq_of_getLsbD_eq
  intro i hi
  simp only [rsv1Field, ctxField, rsv0Field, modeField, opField, BitVec.getLsbD_append, BitVec.getLsbD_extractLsb']
  grind

theorem decodeFixed_eq_ok {i j : Instr} {mode : BitVec 2} {ctx : BitVec 8} (h : decodeFixed i mode ctx = .ok j) :
    i = j ∧ mode = 0#2 ∧ ctx = 0#8 := by
  unfold decodeFixed at h
  split_ifs at h with hm hc
  injection h with h
  exact ⟨h, not_not.1 hm, not_not.1 hc⟩

theorem decodeHash_ne_nop (mode : BitVec 2) (ctx : BitVec 8) : decodeHash mode ctx ≠ .ok .nop := by
  unfold decodeHash
  split_ifs <;> simp

theorem decodeCtxInit_ne_nop (mode : BitVec 2) (ctx : BitVec 8) : decodeCtxInit mode ctx ≠ .ok .nop := by
  unfold decodeCtxInit
  split_ifs <;> simp

/-- Only the word 0 is NOP (44_hash_context.md R236). -/
theorem decode_eq_nop {w : Word} (h : decode w = .ok .nop) : w = 0#32 := by
  unfold decode at h
  dsimp only at h
  split_ifs at h with hr ho
  · obtain ⟨h0, h1⟩ := not_or.1 hr
    obtain ⟨-, hm, hc⟩ := decodeFixed_eq_ok h
    rw [word_eq_fields w, not_not.1 h0, not_not.1 h1, ho, hm, hc]
    rfl
  · exact absurd h (decodeHash_ne_nop _ _)
  · exact absurd h (decodeCtxInit_ne_nop _ _)
  all_goals exact absurd (decodeFixed_eq_ok h).1 (by simp)

theorem runCommand_frame {w : Word} {s t : State} (h : runCommand w s = .next t) : CommandFrame s t := by
  unfold runCommand at h
  split at h
  · exact exec_frame h
  · injection h with h
    exact h ▸ (CommandEnd.failure .illegalCommand (by simp)).frame

/-- A CMD word is NOP's, or reports a status (60_exceptions.md R262, R263, R264). -/
theorem runCommand_cases {w : Word} {s t : State} (h : runCommand w s = .next t) : (w = 0#32 ∧ t = s) ∨ t.Reported := by
  unfold runCommand at h
  split at h
  · next i hi =>
    by_cases hn : i = .nop
    · subst hn
      injection h with h
      exact .inl ⟨decode_eq_nop hi, h.symm⟩
    · exact .inr (exec_reported hn h)
  · injection h with h
    exact .inr (h ▸ (CommandEnd.failure .illegalCommand (by simp)).reported)

/-- Settles O42: RESULT and ERR show the status that the epilogue left. -/
theorem everyCommandReportsItsStatus : Obligations.EveryCommandReportsItsStatus := by
  intro s t w hw h
  rcases runCommand_cases h with ⟨h0, -⟩ | ⟨hz, hs⟩
  · exact absurd h0 hw
  have hcode : (t.readReg .err).toNat = t.regs.code.toNat := by
    simp only [State.readReg, errWord, BitVec.toNat_setWidth]
    omega
  rcases hs with ⟨hok, hc⟩ | ⟨hok, hc, hc'⟩
  · exact ⟨hz, .inl ⟨by simp only [State.readReg, hok, resultWord, if_true], by simp only [State.readReg, hc]; rfl⟩⟩
  · exact ⟨hz, .inr ⟨by simp [State.readReg, hok, resultWord], hcode ▸ hc, hcode ▸ hc'⟩⟩

/-! ## The status is no input (10_state.md R40) -/

theorem State.setRegs_regs_self (s : State) : s.setRegs s.regs = s := by cases s; rfl

/-- HASH leaves every register but the status. -/
theorem State.hash_regs (s : State) (m : HashMode) (c : Nat) :
    (s.hash m c).regs = s.regs.setStatus (s.hash m c).regs.ok (s.hash m c).regs.code := by
  obtain ⟨hg, -⟩ := State.afterResolve_fields s m c
  cases hx : s.resolveContext m c with
  | error e =>
    rw [State.hash_of_error hx, State.failureEpilogue_none, hg]
    rfl
  | ok slot =>
    rw [State.hash_of_ok hx]
    rcases State.hashOn_cases (s.afterResolve m c) slot with ⟨e, -, ⟨h, -⟩, -⟩ | ⟨v0, v1, -, -, -, ⟨h, -⟩, -⟩
    all_goals
      rw [h, hg]
      rfl

/-- HASH does the same whatever the status is. -/
theorem State.hash_setStatus (s : State) (m : HashMode) (c : Nat) (ok : Bool) (code : BitVec 4) :
    (s.setRegs (s.regs.setStatus ok code)).hash m c = s.hash m c := by
  have h : (s.regs.setStatus ok code).setStatus (s.hash m c).regs.ok (s.hash m c).regs.code = (s.hash m c).regs :=
    (State.hash_regs s m c).symm
  rw [State.hash_setRegs s m c (s.regs.setStatus ok code) rfl rfl rfl rfl, h, State.setRegs_regs_self]

/-- The success epilogue overwrites the status. -/
theorem State.successEpilogue_setStatus (s : State) (ok : Bool) (code : BitVec 4) :
    (s.setRegs (s.regs.setStatus ok code)).successEpilogue = s.successEpilogue := by
  simp only [State.successEpilogue_eq, State.setRegs, Regs.setStatus]

/-- The failure epilogue overwrites the status. -/
theorem State.failureEpilogue_setStatus (s : State) (ok : Bool) (code : BitVec 4) (e : ErrCode) :
    (s.setRegs (s.regs.setStatus ok code)).failureEpilogue e none = s.failureEpilogue e none := by
  simp only [State.failureEpilogue_none, State.setRegs, Regs.setStatus]

theorem exec_setStatus (s : State) {i : Instr} (hi : i ≠ .nop) (ok : Bool) (code : BitVec 4) :
    exec i (s.setRegs (s.regs.setStatus ok code)) = exec i s := by
  have hash : ∀ m c, exec (hashOf m c) (s.setRegs (s.regs.setStatus ok code)) = exec (hashOf m c) s := fun m c => by
    rw [exec_hashOf, exec_hashOf, State.hash_setStatus]
  cases i with
  | nop => exact absurd rfl hi
  | hashShared => exact hash .shared 0
  | hashReentrant c => exact hash .reentrant c
  | hashSized c => exact hash .sized c
  | hashGrowing c => exact hash .growing c
  | ctxInit c =>
    have he : s.regs = (s.ensureInitialized c).regs := (State.ensureInitialized_regs s c).symm
    simp only [exec, execCtxInit, State.setRegs_cfg, State.failureEpilogue_setStatus, State.ensureInitialized_setRegs]
    rw [he, State.successEpilogue_setStatus]
  | saltDecode =>
    have hd : (s.setRegs (s.regs.setStatus ok code)).saltDecode = s.saltDecode := rfl
    simp only [exec, execSaltDecode, hd, State.failureEpilogue_setStatus]
    rfl
  | encode6 =>
    simp only [exec, execEncode6, State.failureEpilogue_setStatus]
    rfl
  | keyDerive =>
    have hd : (s.setRegs (s.regs.setStatus ok code)).keyDerive = s.keyDerive := rfl
    simp only [exec, execKeyDerive, hd, State.failureEpilogue_setStatus]
    rfl
  | digest => rfl
  | outEncode => rfl

/-- Settles O43: each command's epilogue overwrites the status, and nothing before it reads it. -/
theorem noCommandReadsTheStatus : Obligations.NoCommandReadsTheStatus :=
  fun s _ ok code hi => exec_setStatus s hi ok code

/-! ## Every step -/

/-- A region is one interval of offsets (20_memory.md R61). -/
theorem regionOf_between {cfg : Config} {o o' b : Nat} {r : Region} (h : regionOf cfg o = some r)
    (h' : regionOf cfg o' = some r) (hb : o ≤ b) (hb' : b ≤ o') : regionOf cfg b = some r := by
  rcases regionOf_cases h with ⟨rfl, h1⟩ | ⟨rfl, h1, h2⟩ | ⟨rfl, h1, h2⟩ | ⟨c, j, rfl, hc, hj, rfl⟩ <;>
    rcases regionOf_cases h' with ⟨hr, h3⟩ | ⟨hr, h3, h4⟩ | ⟨hr, h3, h4⟩ | ⟨c', j', hr, hc', hj', rfl⟩ <;> cases hr
  · exact regionOf_page cfg (by omega)
  · exact regionOf_passBuf cfg (by omega) (by omega)
  · exact regionOf_saltBuf cfg (by omega) (by omega)
  · obtain ⟨k, rfl⟩ : ∃ k, b = slotAt c k := ⟨b - slotAt c 0, by simp only [slotAt] at *; omega⟩
    exact regionOf_slot cfg hc (by simp only [slotAt] at hb'; omega)

/-- The bytes of an admitted access to storage are mapped, and no registers (20_memory.md R66). -/
theorem admit_storage {cfg : Config} {addr n o b : Nat} (ha : admitAccess cfg addr n = .ok o) (ho : 0x100 ≤ o)
    (hb : o ≤ b) (hb' : b < o + n) : ∃ r, regionOf cfg b = some r ∧ r ≠ .page := by
  obtain ⟨-, -, -, r, h1, h2, -⟩ := admit_ok ha
  refine ⟨r, regionOf_between h1 h2 hb (by omega), ?_⟩
  rintro rfl
  rcases regionOf_cases h1 with ⟨-, h⟩ | ⟨h, -⟩ | ⟨h, -⟩ | ⟨_, _, h, -⟩
  · omega
  all_goals cases h

theorem State.hostWrite_cfg (s : State) (o n : Nat) (v : Word) : (s.hostWrite o n v).cfg = s.cfg := by
  rcases s.hostWrite_cases o n v with ⟨r, h⟩ | h | ⟨-, h⟩ <;> simp [h]

/-- A host's write of registers or storage keeps the invariant. -/
theorem State.hostWrite_inv {s : State} {addr n o : Nat} {v : Word} (hi : s.Inv)
    (ha : admitAccess s.cfg addr n = .ok o) : (s.hostWrite o n v).Inv := by
  rcases s.hostWrite_cases o n v with ⟨r, h⟩ | h | ⟨ho, h⟩ <;> rw [h]
  · obtain ⟨hok, hcode, -⟩ := writeRegs_readOnly s.regs r v
    simpa [State.Inv, Regs.StatusLegal, hok, hcode] using hi
  · exact hi
  · obtain ⟨hl, hw, hm, hz, hs⟩ := hi
    refine ⟨by simpa using hl, Memory.wf_write _ _ hw, ?_, by simpa using hz, by simpa using hs⟩
    rw [State.writeLE_cfg]
    refine Memory.mapped_write _ _ hm fun b h1 h2 => admit_storage ha ho h1 ?_
    simpa [leBytes] using h2

/-- Every CMD word, legal or not, keeps the invariant. -/
theorem runCommand_inv {w : Word} {s t : State} (hi : s.Inv) (h : runCommand w s = .next t) : t.Inv := by
  rcases runCommand_cases h with ⟨-, rfl⟩ | hr
  · exact hi
  · obtain ⟨hl, hw, hm, -⟩ := hi
    have hf := runCommand_frame h
    exact ⟨hf.cfg ▸ hl, hf.wf hw, hf.cfg ▸ hf.mapped hl.1 hm, hr.1, hr.statusLegal⟩

theorem State.complete_inv {s : State} (es : List BusEvent) (p : Reply) (h : s.Inv) : (s.complete es p).Inv := h

/-- Settles O54: each kind of step keeps the invariant. -/
theorem everyStepKeepsTheInvariant : Obligations.EveryStepKeepsTheInvariant := by
  intro s t hi h
  rcases step_cases h with ⟨-, rfl⟩ | ⟨rest, -, rfl⟩ | ⟨_, _, _, _, rest, -, -, rfl⟩ | ⟨_, _, _, _, _, rest, -, ha, -, rfl⟩ |
    ⟨_, _, _, rest, -, -, hc⟩
  · exact hi
  · exact State.resetWith_inv _ _ _ hi.1
  · exact State.complete_inv _ _ hi
  · exact State.hostWrite_inv (State.complete_inv _ _ hi) ha
  · exact runCommand_inv (State.complete_inv _ _ hi) hc

/-- Settles O57: each kind of step keeps the parameters. -/
theorem parametersAreConstant : Obligations.ParametersAreConstant := by
  refine ⟨fun s t h => ?_, fun s hl => State.readReg_config_of_legal hl⟩
  rcases step_cases h with ⟨-, rfl⟩ | ⟨_, -, rfl⟩ | ⟨_, _, _, _, _, -, -, rfl⟩ | ⟨_, _, _, _, _, _, -, -, -, rfl⟩ |
    ⟨_, _, _, _, -, -, hc⟩
  · rfl
  · rfl
  · rfl
  · exact State.hostWrite_cfg ..
  · exact (runCommand_frame hc).cfg

end Sys2Proof.Machine

namespace Sys2Proof.Machine

/-! ## Storage accesses (20_memory.md R67, R69) -/

theorem State.hostRead_storage (s : State) {o : Nat} (n : Nat) (h : 0x100 ≤ o) : s.hostRead o n = s.readLE o n :=
  if_neg (Nat.not_lt.2 h)

theorem State.hostWrite_storage (s : State) {o : Nat} (n : Nat) (v : Word) (h : 0x100 ≤ o) :
    s.hostWrite o n v = s.writeLE o n v :=
  if_neg (Nat.not_lt.2 h)

/-- Settles O48: the write leaves the parameters, so the read is admitted at the same offset and finds the bytes written. -/
theorem storageWordReadsBack : Obligations.StorageWordReadsBack := by
  intro s host host' addr n o v rest ha ho hb
  have hn : n ≤ 4 := by obtain ⟨-, h, -⟩ := admit_ok ha; omega
  have hwrite := step_write hb ha (by omega)
  rw [State.hostWrite_storage _ n v ho] at hwrite
  generalize ht : (s.complete _ (.writeDone host)).writeLE o n v = t at hwrite
  have hbus : t.bus = .read host' addr n :: rest := by simp [← ht]
  have hcfg : t.cfg = s.cfg := by simp [← ht]
  refine ⟨t, _, hwrite, step_read hbus (hcfg ▸ ha), ?_⟩
  rw [State.complete_reply, State.hostRead_storage t n ho, ← ht, State.readLE_writeLE _ o n v hn]

/-! ## Which accesses are admitted (20_memory.md R61-R66, R69, R70) -/

/-- An access inside the window is admitted when its width is legal, it is aligned, and both its ends lie in one region that
takes its width: the converse of `admit_ok`. -/
theorem admit_of_region {cfg : Config} {n o : Nat} {r : Region} (hw : o < Config.windowBytes)
    (hn : n = 1 ∨ n = 2 ∨ n = 4) (hal : o % n = 0) (hr : regionOf cfg o = some r)
    (hr' : regionOf cfg (o + (n - 1)) = some r) (hp : r = .page → n = 4) :
    admitAccess cfg (cfg.base + o) n = .ok o := by
  have hwidth : ¬((r = .page ∧ n ≠ 4) ∨ (n ≠ 1 ∧ n ≠ 2 ∧ n ≠ 4)) := by
    rintro (⟨h, h4⟩ | h)
    · exact h4 (hp h)
    · omega
  unfold admitAccess
  rw [if_neg (by omega), Nat.add_sub_cancel_left]
  simp only [hr, hr', hwidth, hal, if_false, ne_eq, not_true_eq_false]

/-- Settles O45: each region is one of the ranges, and an aligned access that starts in a range ends in it. -/
theorem admittedAccesses : Obligations.AdmittedAccesses := by
  intro cfg addr n o hlegal
  constructor
  · intro ha
    obtain ⟨hadd, hn, hal, r, hr, -, hp⟩ := admit_ok ha
    refine ⟨hadd, ?_⟩
    rcases regionOf_cases hr with ⟨rfl, h⟩ | ⟨-, h⟩ | ⟨-, h⟩ | ⟨c, j, -, hc, hj, ho⟩
    · obtain rfl := hp rfl
      exact .inl ⟨h, rfl, hal⟩
    · exact .inr ⟨hn, hal, .inl h⟩
    · exact .inr ⟨hn, hal, .inr (.inl h)⟩
    · exact .inr ⟨hn, hal, .inr (.inr ⟨c, j, hc, hj, ho⟩)⟩
  · rintro ⟨rfl, ⟨h, rfl, h4⟩ | ⟨hn, hal, hrange⟩⟩
    · exact admit_page cfg h h4
    have hend : ∀ k, k % 4 = 0 → o < k → o + (n - 1) < k := by
      intro k hk ho
      rcases hn with rfl | rfl | rfl <;> omega
    rcases hrange with ⟨h, h'⟩ | ⟨h, h'⟩ | ⟨c, j, hc, hj, ho⟩
    · exact admit_of_region (by simp only [Config.windowBytes]; omega) hn hal (regionOf_passBuf cfg h h')
        (regionOf_passBuf cfg (by omega) (hend _ rfl h')) (by simp)
    · exact admit_of_region (by simp only [Config.windowBytes]; omega) hn hal (regionOf_saltBuf cfg h h')
        (regionOf_saltBuf cfg (by omega) (hend _ rfl h')) (by simp)
    · have hlast := hend (0x10000 * (c + 1) + 0x8200) (by omega) (by omega)
      have hlast' : regionOf cfg (o + (n - 1)) = some (.slot c) := by
        rw [show o + (n - 1) = slotAt c (j + (n - 1)) by simp only [slotAt]; omega]
        exact regionOf_slot cfg hc (by omega)
      obtain ⟨-, hctx, -⟩ := hlegal
      exact admit_of_region (by simp only [Config.windowBytes]; omega) hn hal (ho ▸ regionOf_slot cfg hc hj) hlast' (by simp)

/-! ## When a step answers (20_memory.md R66, 60_exceptions.md R277) -/

/-- With no access to come the engine waits (log 9). -/
theorem step_wait {s : State} (hb : s.bus = []) : step s = .next s := by
  simp only [step, State.nextAction, hb]

/-- Only a word access to BASE reaches CMD (20_memory.md R62). -/
theorem admit_cmd {cfg : Config} {addr n : Nat} (h : admitAccess cfg addr n = .ok 0) : addr = cfg.base ∧ n = 4 := by
  obtain ⟨hadd, -, -, r, hr, -, hp⟩ := admit_ok h
  rw [regionOf_page cfg (by decide)] at hr
  injection hr with hr
  exact ⟨hadd, hp hr.symm⟩

/-- A reset or an admitted access is answered with a next state, and any other access is a fault. -/
theorem step_event {s : State} {ev : BusEvent} {rest : List BusEvent} (hb : s.bus = ev :: rest) :
    (eventAdmitted s.cfg ev = true ∧ ∃ t, step s = .next t) ∨ (eventAdmitted s.cfg ev = false ∧ ∃ f, step s = .fault f) := by
  cases ev with
  | reset => exact .inl ⟨rfl, s.resetEvent rest, by simp only [step, State.nextAction, hb]⟩
  | read host addr n =>
    cases ha : admitAccess s.cfg addr n with
    | error f => exact .inr ⟨congrArg Except.isOk ha, f, by simp only [step, State.nextAction, hb, State.readAction, ha]⟩
    | ok o => exact .inl ⟨congrArg Except.isOk ha, _, step_read hb ha⟩
  | write host addr n v =>
    cases ha : admitAccess s.cfg addr n with
    | error f => exact .inr ⟨congrArg Except.isOk ha, f, by simp only [step, State.nextAction, hb, State.writeAction, ha]⟩
    | ok o =>
      refine .inl ⟨congrArg Except.isOk ha, ?_⟩
      by_cases ho : o = 0
      · subst ho
        obtain ⟨rfl, rfl⟩ := admit_cmd ha
        rw [step_cmd hb]
        exact runCommand_answers v _
      · exact ⟨_, step_write hb ha ho⟩

/-- Settles O8: an empty bus waits, an admitted event is answered, and any other is a fault. -/
theorem onlyBusErrorsStop : Obligations.OnlyBusErrorsStop := by
  intro s
  cases hb : s.bus with
  | nil => simp [step_wait hb]
  | cons ev rest =>
    rcases step_event hb with ⟨ha, t, h⟩ | ⟨ha, f, h⟩
    · simp [h, ha]
    · simp [h, ha]

theorem State.hostWrite_bus (s : State) (o n : Nat) (v : Word) : (s.hostWrite o n v).bus = s.bus := by
  rcases s.hostWrite_cases o n v with ⟨r, h⟩ | h | ⟨-, h⟩ <;> simp [h]

/-- A step takes its event off the bus, and nothing else (log 5). -/
theorem step_bus {s t : State} (h : step s = .next t) : t.bus = s.bus.tail := by
  rcases step_cases h with ⟨hb, rfl⟩ | ⟨_, hb, rfl⟩ | ⟨_, _, _, _, _, hb, -, rfl⟩ | ⟨_, _, _, _, _, _, hb, -, -, rfl⟩ |
    ⟨_, _, _, _, hb, -, hc⟩ <;> rw [hb]
  · rfl
  · rfl
  · rfl
  · exact State.hostWrite_bus ..
  · exact (runCommand_frame hc).bus

/-- A step of a clean bus leaves a clean bus: the parameters stay, and the events to come are the tail. -/
theorem step_busClean {s t : State} (hs : s.BusClean) (h : step s = .next t) : t.BusClean := by
  rw [State.BusClean, step_bus h, parametersAreConstant.1 s t h, List.all_eq_true]
  exact fun ev hev => List.all_eq_true.1 hs ev (List.mem_of_mem_tail hev)

/-- Settles O56: the next event is admitted, so the step answers, and `step_busClean` says that the rest is clean. -/
theorem cleanRunsNeverStop : Obligations.CleanRunsNeverStop := by
  intro s hs
  have hnext : ∃ t, step s = .next t := by
    cases hb : s.bus with
    | nil => exact ⟨s, step_wait hb⟩
    | cons ev rest =>
      have hev : eventAdmitted s.cfg ev = true := List.all_eq_true.1 hs ev (by simp [hb])
      rcases step_event hb with ⟨-, h⟩ | ⟨ha, -⟩
      · exact h
      · simp [hev] at ha
  obtain ⟨t, h⟩ := hnext
  exact ⟨t, h, step_busClean hs h, fun _ => step_bus h⟩

end Sys2Proof.Machine

namespace Sys2Proof.Machine

/-! ## Words and commands (30_encoding.md R91-R96, R103) -/

/-- A packed word gives its CTX back (R91). -/
theorem ctxField_packC (op : BitVec 8) (mode : BitVec 2) (ctx : BitVec 8) : ctxField (packC op mode ctx) = ctx := by
  apply BitVec.eq_of_getLsbD_eq
  intro i hi
  simp only [ctxField, packC, BitVec.getLsbD_extractLsb', BitVec.getLsbD_append]
  grind

/-- A word with both reserved fields 0 is the packing of its other three (R91). -/
theorem eq_packC_of_rsv_zero {w : Word} (h0 : rsv0Field w = 0#6) (h1 : rsv1Field w = 0#8) :
    w = packC (opField w) (modeField w) (ctxField w) := by
  rw [packC, ← h0, ← h1]
  exact word_eq_fields w

/-- A word with HASH's OP is read by the HASH decoder (R93). -/
theorem decode_packC_hash (mode : BitVec 2) (ctx : BitVec 8) : decode (packC 0x01#8 mode ctx) = decodeHash mode ctx := by
  obtain ⟨h0, h1, hm, ho⟩ := Laws.Reserved.packC_fields 0x01#8 mode ctx
  simp [decode, h0, h1, hm, ho, ctxField_packC]

/-- A word with CTX_INIT's OP is read by the CTX_INIT decoder (R92). -/
theorem decode_packC_ctxInit (mode : BitVec 2) (ctx : BitVec 8) :
    decode (packC 0x02#8 mode ctx) = decodeCtxInit mode ctx := by
  obtain ⟨h0, h1, hm, ho⟩ := Laws.Reserved.packC_fields 0x02#8 mode ctx
  simp [decode, h0, h1, hm, ho, ctxField_packC]

/-- A slot index that fits the CTX field is read back from it (R94). -/
theorem toNat_ctx {c : Nat} (h : c < 256) : (BitVec.ofNat 8 c).toNat = c := by
  rw [BitVec.toNat_ofNat, Nat.mod_eq_of_lt h]

/-- Settles O1: the words without a slot are constants, and a slot index is read back from its field. -/
theorem decodeInvertsEncode : Obligations.DecodeInvertsEncode := by
  intro i hi
  cases i with
  | hashReentrant c | hashSized c | hashGrowing c => simp [encode, decode_packC_hash, decodeHash, toNat_ctx hi]
  | ctxInit c => simp [encode, decode_packC_ctxInit, decodeCtxInit, toNat_ctx hi]
  | nop | hashShared | saltDecode | encode6 | keyDerive | digest | outEncode => decide

/-- What HASH decodes to is well formed and has the word decoded (R93, R94, R96). -/
theorem decodeHash_eq_ok {i : Instr} {mode : BitVec 2} {ctx : BitVec 8} (h : decodeHash mode ctx = .ok i) :
    WellFormed i ∧ encode i = packC 0x01#8 mode ctx := by
  unfold decodeHash at h
  split_ifs at h with h0 hc h1 h2 <;> injection h with h <;> subst h
  · exact ⟨trivial, by rw [h0, hc, encode]⟩
  · exact ⟨ctx.isLt, by rw [h1, encode, BitVec.ofNat_toNat, BitVec.setWidth_eq]⟩
  · exact ⟨ctx.isLt, by rw [h2, encode, BitVec.ofNat_toNat, BitVec.setWidth_eq]⟩
  · have h3 : mode = 3#2 := by bv_omega
    exact ⟨ctx.isLt, by rw [h3, encode, BitVec.ofNat_toNat, BitVec.setWidth_eq]⟩

/-- What CTX_INIT decodes to is well formed and has the word decoded (R94, R96). -/
theorem decodeCtxInit_eq_ok {i : Instr} {mode : BitVec 2} {ctx : BitVec 8} (h : decodeCtxInit mode ctx = .ok i) :
    WellFormed i ∧ encode i = packC 0x02#8 mode ctx := by
  unfold decodeCtxInit at h
  split_ifs at h with h0
  injection h with h
  subst h
  exact ⟨ctx.isLt, by rw [not_not.1 h0, encode, BitVec.ofNat_toNat, BitVec.setWidth_eq]⟩

/-- Settles O2: the word is packed from its fields, and each OP's decoder answers the command packed from the same ones. -/
theorem encodeInvertsDecode : Obligations.EncodeInvertsDecode := by
  intro w i h
  have fixed : ∀ {j : Instr} {op : BitVec 8}, WellFormed j → encode j = packC op 0#2 0#8 →
      decodeFixed j (modeField w) (ctxField w) = .ok i →
      WellFormed i ∧ encode i = packC op (modeField w) (ctxField w) := by
    intro j op hj he hd
    obtain ⟨rfl, hm, hc⟩ := decodeFixed_eq_ok hd
    exact ⟨hj, by rw [he, hm, hc]⟩
  unfold decode at h
  dsimp only at h
  split_ifs at h with hr ho ho ho ho ho ho ho ho
  all_goals
    obtain ⟨h0, h1⟩ := not_or.1 hr
    rw [eq_packC_of_rsv_zero (not_not.1 h0) (not_not.1 h1), ho]
  · exact fixed trivial rfl h
  · exact decodeHash_eq_ok h
  · exact decodeCtxInit_eq_ok h
  all_goals exact fixed trivial rfl h

/-! ## Illegal words (R96, R97, R98) -/

theorem decodeFixed_error_iff (i : Instr) (mode : BitVec 2) (ctx : BitVec 8) :
    (∃ e, decodeFixed i mode ctx = .error e) ↔ mode ≠ 0#2 ∨ ctx ≠ 0#8 := by
  unfold decodeFixed
  split_ifs with hm hc <;> simp_all

theorem decodeHash_error_iff (mode : BitVec 2) (ctx : BitVec 8) :
    (∃ e, decodeHash mode ctx = .error e) ↔ mode = 0#2 ∧ ctx ≠ 0#8 := by
  unfold decodeHash
  split_ifs with h0 hc <;> simp_all

theorem decodeCtxInit_error_iff (mode : BitVec 2) (ctx : BitVec 8) :
    (∃ e, decodeCtxInit mode ctx = .error e) ↔ mode ≠ 0#2 := by
  unfold decodeCtxInit
  split_ifs with hm <;> simp [hm]

/-- Settles O4: OP selects the constraint that the word can break, and an Illegal word runs the failure epilogue. -/
theorem illegalWordsOnlyReport : Obligations.IllegalWordsOnlyReport := by
  refine ⟨fun w => ?_, fun s host w rest e hb hd => ?_⟩
  · unfold decode
    dsimp only
    split_ifs with hr ho ho ho ho ho ho ho ho
    · rcases hr with hr | hr <;> simp [hr]
    all_goals
      obtain ⟨h0, h1⟩ := not_or.1 hr
      simp [not_not.1 h0, not_not.1 h1, *, decodeFixed_error_iff, decodeHash_error_iff, decodeCtxInit_error_iff]
  · rw [step_cmd hb]
    simp only [runCommand, hd, State.illegalCommand, State.failureEpilogue_none, State.complete, ErrCode.value]

/-- Settles O5, by running the decoder on each word. -/
theorem decodeReadsTheTableWords : Obligations.DecodeReadsTheTableWords := by
  unfold Obligations.DecodeReadsTheTableWords
  decide

/-! ## setpass (30_encoding.md R102) -/

/-- A one-byte little-endian write stores its byte. -/
theorem State.writeLE_one (s : State) (o : Nat) (b : Byte) : s.writeLE o 1 (b.setWidth 32) = s.setByte o b := by
  have hb : leBytes 1 (b.setWidth 32) = [b] := by simp [leBytes, BitVec.extractLsb'_setWidth_of_le]
  rw [State.writeLE, hb, State.writeBytes_cons, State.writeBytes_nil]

/-- `wr8` in PASSBUF stores its byte (R101). -/
theorem step_wr8_passBuf {s : State} {host o : Nat} {b : Byte} {rest : List BusEvent} (h : 0x1000 ≤ o) (h' : o < 0x1200)
    (hb : s.bus = wrAt s.cfg host 1 o (b.setWidth 32) :: rest) :
    step s = .next ((s.complete rest (.writeDone host)).setByte o b) := by
  have hr := regionOf_passBuf s.cfg h h'
  have ha : admitAccess s.cfg (s.cfg.base + o) 1 = .ok o :=
    admit_of_region (by simp only [Config.windowBytes]; omega) (.inl rfl) (Nat.mod_one o) hr hr (by simp)
  rw [step_write hb ha (by omega), State.hostWrite_storage _ 1 _ (by omega), State.writeLE_one]

/-- The `wr8` lines of a list of bytes inside PASSBUF store the list, one step a line. -/
theorem run_wrBytes_passBuf {s : State} {host o : Nat} {bytes : List Byte} {rest : List BusEvent} (h : 0x1000 ≤ o)
    (h' : o + bytes.length ≤ 0x1200) (hb : s.bus = wrBytes s.cfg host o bytes ++ rest) :
    ∃ p, ∀ k, core.run (bytes.length + k) s = core.run k { s.writeBytes o bytes with bus := rest, reply := p } := by
  induction bytes generalizing s o with
  | nil =>
    refine ⟨s.reply, fun k => ?_⟩
    have hs : { s.writeBytes o [] with bus := rest, reply := s.reply } = s := by
      rw [State.writeBytes_nil, ← show s.bus = rest from hb]
    rw [hs, List.length_nil, Nat.zero_add]
  | cons b bs ih =>
    rw [List.length_cons] at h'
    rw [wrBytes, List.cons_append] at hb
    obtain ⟨p, hp⟩ := ih (s := (s.complete (wrBytes s.cfg host (o + 1) bs ++ rest) (.writeDone host)).setByte o b)
      (o := o + 1) (by omega) (by omega) (by simp)
    refine ⟨p, fun k => ?_⟩
    have hrun : core.run (bs.length + k + 1) s = _ :=
      (run_succ_of_step core _ (step_wr8_passBuf h (by omega) hb)).trans (hp k)
    rw [List.length_cons, Nat.add_right_comm, hrun, State.writeBytes_cons]
    simp only [State.setByte, State.writeBytes, State.setMem, State.complete]

/-- Settles O58: the `wr8` lines store the bytes, and the last line writes PASS_LEN. -/
theorem setpassStoresThePassphrase : Obligations.SetpassStoresThePassphrase := by
  intro s host bytes hlen hb
  obtain ⟨p, hp⟩ := run_wrBytes_passBuf (Nat.le_refl _) (by omega) hb
  generalize hu : ({ s.writeBytes 0x1000 bytes with bus := _, reply := p } : State) = u at hp
  have hbytes : ∀ a, u.byteAt a = (s.writeBytes 0x1000 bytes).byteAt a := fun a => by rw [← hu]; rfl
  have hlast : step u = .next _ := step_write_register (r := .passLen) (by simp) (by rw [← hu]; rfl)
  refine ⟨_, (hp 1).trans (run_succ_of_step core 0 hlast), rfl, fun i hi => ?_, fun a ha => ?_, ?_⟩
  · rw [State.passByte, State.byteAt_setRegs, State.byteAt_complete, hbytes, State.byteAt_writeBytes]
    simp [passAt, hi]
  · rw [State.byteAt_setRegs, State.byteAt_complete, hbytes, State.byteAt_writeBytes, if_neg (by omega)]
  · rw [← hu]
    rfl

end Sys2Proof.Machine

namespace Sys2Proof.Machine

/-! ## The alphabet and the numeric salt (40_salt_codec.md R110-R113, R119) -/

/-- A byte decodes to an index exactly if it is the alphabet's byte there (R113). -/
theorem decode6_eq_some_iff {b : Byte} {v : BitVec 6} : decode6 b = some v ↔ b = encode6 v := by
  constructor
  · intro h
    unfold decode6 at h
    split_ifs at h with hd hu hl <;> cases h
    · rw [encode6, if_pos (by bv_omega)]
      bv_omega
    · rw [encode6, if_neg (by bv_omega), if_pos (by bv_omega)]
      bv_omega
    · rw [encode6, if_neg (by bv_omega), if_neg (by bv_omega)]
      bv_omega
  · rintro rfl
    unfold encode6
    split_ifs with hd hu
    · rw [decode6, if_pos (by bv_omega), Option.some_inj]
      bv_omega
    · rw [decode6, if_neg (by bv_omega), if_pos (by bv_omega), Option.some_inj]
      bv_omega
    · rw [decode6, if_neg (by bv_omega), if_neg (by bv_omega), if_pos (by bv_omega), Option.some_inj]
      bv_omega

/-- The composed number: character 0 counts ones and character 1 counts 64s (R119). -/
theorem saltNumber_toNat (v0 v1 : BitVec 6) : (saltNumber v0 v1).toNat = v0.toNat + 64 * v1.toNat := by
  rw [saltNumber, BitVec.toNat_append, ← Nat.shiftLeft_add_eq_or_of_lt v0.isLt, Nat.shiftLeft_eq]
  omega

/-- Composition is undone by cutting the number into its two six-bit halves (R119). -/
theorem saltNumber_eq_iff {v0 v1 : BitVec 6} {n : BitVec 12} :
    saltNumber v0 v1 = n ↔ v0 = n.extractLsb' 0 6 ∧ v1 = n.extractLsb' 6 6 := by
  constructor
  · rintro rfl
    exact ⟨BitVec.extractLsb'_append_eq_right.symm, BitVec.extractLsb'_append_eq_left.symm⟩
  · rintro ⟨rfl, rfl⟩
    rw [saltNumber, BitVec.extractLsb'_append_extractLsb'_eq_extractLsb' (show 6 = 0 + 6 from rfl),
      BitVec.extractLsb'_eq_self]

/-- Settles O17: the pair is the alphabet's bytes at the two halves of the number. -/
theorem numericSaltIsABijection : Obligations.NumericSaltIsABijection := by
  refine ⟨saltNumber_toNat, fun n => ⟨encode6 (n.extractLsb' 0 6), encode6 (n.extractLsb' 6 6),
    ⟨_, _, decode6_eq_some_iff.2 rfl, decode6_eq_some_iff.2 rfl, saltNumber_eq_iff.2 ⟨rfl, rfl⟩⟩, ?_⟩⟩
  rintro d0 d1 ⟨v0, v1, h0, h1, hn⟩
  obtain ⟨rfl, rfl⟩ := saltNumber_eq_iff.1 hn
  exact ⟨decode6_eq_some_iff.1 h0, decode6_eq_some_iff.1 h1⟩

/-! ## What each component command does (40_salt_codec.md R121, R122; 41_key_deriver.md R148; 42_digest_engine.md R178;
43_output_encoder.md R204) -/

theorem exec_saltDecode_of_error {s : State} {e : ErrCode} (h : s.saltDecode = .error e) :
    exec .saltDecode s = .next (s.failureEpilogue e none) := by
  simp only [exec, execSaltDecode, h]

theorem exec_saltDecode_of_ok {s : State} {d : DecodedSalt} (h : s.saltDecode = .ok d) :
    exec .saltDecode s = .next (s.setRegs ((s.regs.setSaltNum d.salt).setSaltCh (d.ch1 ++ d.ch0))).successEpilogue := by
  simp only [exec, execSaltDecode, h]

theorem exec_encode6_of_le {s : State} (h : s.regs.encArg.toNat ≤ 63) :
    exec .encode6 s = .next (s.setRegs (s.regs.setEncRes (encode6 (s.regs.encArg.extractLsb' 0 6)))).successEpilogue :=
  if_neg (Nat.not_lt.2 h)

theorem exec_encode6_of_gt {s : State} (h : 63 < s.regs.encArg.toNat) :
    exec .encode6 s = .next (s.failureEpilogue .invalidArgument none) :=
  if_pos h

theorem exec_keyDerive_of_error {s : State} {e : ErrCode} (h : s.keyDerive = .error e) :
    exec .keyDerive s = .next (s.failureEpilogue e none) := by
  simp only [exec, execKeyDerive, h]

theorem exec_keyDerive_of_ok {s : State} {k : Block} (h : s.keyDerive = .ok k) :
    exec .keyDerive s = .next (s.setRegs (s.regs.setKey k)).successEpilogue := by
  simp only [exec, execKeyDerive, h]

theorem exec_digest (s : State) :
    exec .digest s = .next (s.setRegs (s.regs.setDigest (Des.digest s.keyBlock s.regs.saltNum))).successEpilogue := by
  simp only [exec, execDigest, State.storeDigest, State.computeDigest, Datapath.run_digest, State.successEpilogue_eq,
    State.setRegs, State.setHidden]

theorem exec_outEncode (s : State) :
    exec .outEncode s = .next (s.setRegs (s.regs.setOutW (imageWord s.outImage 0) (imageWord s.outImage 1)
      (imageWord s.outImage 2) (imageWord s.outImage 3))).successEpilogue := rfl

/-! ## SALT_DECODE and ENCODE6 (40_salt_codec.md R115-R122) -/

theorem State.saltDecode_absent {s : State} (hp : s.saltPresent = false) : s.saltDecode = .error .invalidArgument :=
  if_pos hp

theorem State.saltDecode_dollar {s : State} (hp : s.saltPresent = true) (hl : 1 ≤ s.regs.saltLen.toNat)
    (hd : s.saltByte 0 = 0x24#8) : s.saltDecode = .error .unsupportedFormat := by
  simp [State.saltDecode, hp, hl, hd]

theorem State.saltDecode_invalid {s : State} (hp : s.saltPresent = true)
    (hd : ¬(1 ≤ s.regs.saltLen.toNat ∧ s.saltByte 0 = 0x24#8))
    (h : s.regs.saltLen.toNat < 2 ∨ decode6 (s.saltByte 0) = none ∨ decode6 (s.saltByte 1) = none) :
    s.saltDecode = .error .invalidSalt := by
  simp only [State.saltDecode, hp, Bool.true_eq_false, if_false, hd, Config.saltChars]
  split
  · rfl
  · next hl =>
    rcases h.resolve_left hl with h | h <;> simp [saltOfChars, h]

/-- The marker `$` is no character of the alphabet, so a good salt never meets it (R115). -/
theorem State.saltDecode_good {s : State} {v0 v1 : BitVec 6} (hp : s.saltPresent = true)
    (hl : 2 ≤ s.regs.saltLen.toNat) (h0 : decode6 (s.saltByte 0) = some v0) (h1 : decode6 (s.saltByte 1) = some v1) :
    s.saltDecode = .ok { salt := saltNumber v0 v1, ch0 := s.saltByte 0, ch1 := s.saltByte 1 } := by
  have hd : s.saltByte 0 ≠ 0x24#8 := fun h => by
    rw [h] at h0
    exact absurd h0 (by simp [decode6])
  simp [State.saltDecode, hp, hd, Nat.not_lt.2 hl, saltOfChars, h0, h1]

/-- Settles O13: such a salt decodes, and the number and the characters are what it decodes to. -/
theorem saltDecodeResult : Obligations.SaltDecodeResult := by
  intro s v0 v1 hp hl h0 h1
  refine ⟨saltNumber v0 v1, s.saltByte 1 ++ s.saltByte 0, saltNumber_toNat v0 v1, BitVec.extractLsb'_append_eq_right,
    BitVec.extractLsb'_append_eq_left, ?_⟩
  rw [exec_saltDecode_of_ok (State.saltDecode_good hp hl h0 h1), State.successEpilogue_eq]
  rfl

/-- Settles O14: each clause is one branch of the decoder. -/
theorem saltDecodeFailsInOrder : Obligations.SaltDecodeFailsInOrder := by
  refine fun s => ⟨fun hp => ?_, fun hp hl hd => ?_, fun hp hd h => ?_⟩
  · rw [exec_saltDecode_of_error (State.saltDecode_absent hp), State.failureEpilogue_none, ErrCode.value]
  · rw [exec_saltDecode_of_error (State.saltDecode_dollar hp hl hd), State.failureEpilogue_none, ErrCode.value]
  · rw [exec_saltDecode_of_error (State.saltDecode_invalid hp hd h), State.failureEpilogue_none, ErrCode.value]

/-- Settles O15: the low six bits of an argument of at most 63 are the argument itself. -/
theorem encode6Result : Obligations.Encode6Result := by
  refine ⟨by decide, fun s => ⟨fun h => ?_, fun h => ?_⟩⟩
  · rw [exec_encode6_of_le h, State.successEpilogue_eq]
    rfl
  · rw [exec_encode6_of_gt h, State.failureEpilogue_none, ErrCode.value]

/-! ## What the component commands can change (R123, R149, R180, R205) -/

/-- `WritesResult r i r'`: `r'` is `r` with new contents in the result registers of the component command `i`. -/
inductive WritesResult (r : Regs) : Instr → Regs → Prop
  | saltDecode (num : BitVec 12) (ch : BitVec 16) : WritesResult r .saltDecode ((r.setSaltNum num).setSaltCh ch)
  | encode6 (v : Byte) : WritesResult r .encode6 (r.setEncRes v)
  | keyDerive (k : Block) : WritesResult r .keyDerive (r.setKey k)
  | digest (d : Block) : WritesResult r .digest (r.setDigest d)
  | outEncode (w0 w1 w2 w3 : Word) : WritesResult r .outEncode (r.setOutW w0 w1 w2 w3)

/-- A component command reports an error, or it writes its result and succeeds. -/
theorem exec_component_cases {s t : State} {i : Instr} (hi : i ∈ [.saltDecode, .encode6, .keyDerive, .digest, .outEncode])
    (h : exec i s = .next t) :
    (∃ e, t = s.failureEpilogue e none) ∨ ∃ r, WritesResult s.regs i r ∧ t = (s.setRegs r).successEpilogue := by
  have failed : ∀ {e}, exec i s = .next (s.failureEpilogue e none) → ∃ e, t = s.failureEpilogue e none := fun he =>
    ⟨_, Host.Outcome.next.inj (h.symm.trans he)⟩
  have succeeded : ∀ {r}, WritesResult s.regs i r → exec i s = .next (s.setRegs r).successEpilogue →
      ∃ r, WritesResult s.regs i r ∧ t = (s.setRegs r).successEpilogue := fun hr he =>
    ⟨_, hr, Host.Outcome.next.inj (h.symm.trans he)⟩
  simp only [List.mem_cons, List.not_mem_nil, or_false] at hi
  rcases hi with rfl | rfl | rfl | rfl | rfl
  · cases hd : s.saltDecode with
    | error e => exact .inl (failed (exec_saltDecode_of_error hd))
    | ok d => exact .inr (succeeded (.saltDecode ..) (exec_saltDecode_of_ok hd))
  · rcases Nat.lt_or_ge 63 s.regs.encArg.toNat with hl | hl
    · exact .inl (failed (exec_encode6_of_gt hl))
    · exact .inr (succeeded (.encode6 _) (exec_encode6_of_le hl))
  · cases hk : s.keyDerive with
    | error e => exact .inl (failed (exec_keyDerive_of_error hk))
    | ok k => exact .inr (succeeded (.keyDerive k) (exec_keyDerive_of_ok hk))
  · exact .inr (succeeded (.digest _) (exec_digest s))
  · exact .inr (succeeded (.outEncode ..) (exec_outEncode s))

/-- Settles O41: an epilogue writes the status alone, and a success has written the command's own results before it. -/
theorem componentCommandFrames : Obligations.ComponentCommandFrames := by
  intro s t i hi h
  rcases exec_component_cases hi h with ⟨e, rfl⟩ | ⟨r, hr, rfl⟩
  · rw [State.failureEpilogue_none]
    simp only [ite_self, and_self]
  · rw [State.successEpilogue_eq]
    cases hr <;> exact ⟨rfl, rfl, rfl, rfl, rfl, rfl, rfl, rfl⟩

/-! ## The four component commands in a row (R221) -/

/-- A word put together from bytes has them, the first lowest (20_memory.md R67). -/
theorem extractLsb'_leWord (bs : List Byte) {k : Nat} (hk : k < 4) :
    (leWord bs).extractLsb' (8 * k) 8 = bs.getD k 0#8 := by
  induction bs generalizing k with
  | nil => simp [leWord]
  | cons b bs ih =>
    have hcons : leWord (b :: bs) = leWord bs <<< 8 ||| b.setWidth 32 := rfl
    apply BitVec.eq_of_getLsbD_eq
    intro i hi
    rw [hcons, BitVec.getLsbD_extractLsb', BitVec.getLsbD_or, BitVec.getLsbD_shiftLeft, BitVec.getLsbD_setWidth]
    cases k with
    | zero => simp [hi, show i < 32 by omega]
    | succ k =>
      rw [List.getD_cons_succ, ← ih (by omega), BitVec.getLsbD_extractLsb', BitVec.getLsbD_of_ge b _ (by omega),
        show 8 * (k + 1) + i - 8 = 8 * k + i by omega]
      simp [show 8 * (k + 1) + i < 32 by omega, show ¬ 8 * (k + 1) + i < 8 by omega]

/-- Byte j of the output words is byte j of the image (R204). -/
theorem extractLsb'_imageWords (image : List Byte) {j : Nat} (hj : j < 16) :
    ([imageWord image 0, imageWord image 1, imageWord image 2, imageWord image 3].getD (j / 4) 0#32).extractLsb'
      (8 * (j % 4)) 8 = image.getD j 0#8 := by
  have hw : [imageWord image 0, imageWord image 1, imageWord image 2, imageWord image 3].getD (j / 4) 0#32 =
      imageWord image (j / 4) := by
    have hq : j / 4 < 4 := by omega
    interval_cases j / 4 <;> rfl
  rw [hw, imageWord, extractLsb'_leWord _ (by omega)]
  simp only [List.getD_eq_getElem?_getD, List.getElem?_take, List.getElem?_drop]
  rw [if_pos (by omega), Nat.div_add_mod]

/-- A block is its two words (10_state.md R30). -/
theorem block_halves (d : Block) : d.extractLsb' 32 32 ++ d.extractLsb' 0 32 = d := by
  rw [BitVec.extractLsb'_append_extractLsb'_eq_extractLsb' (show 32 = 0 + 32 from rfl), BitVec.extractLsb'_eq_self]

theorem State.hashInputs_eq_ok {s : State} {inp : HashInputs} (h : s.hashInputs = .ok inp) :
    s.saltDecode = .ok inp.salt ∧ s.keyDerive = .ok inp.key := by
  unfold State.hashInputs at h
  rw [capacityCheck_ok] at h
  split_ifs at h
  split at h
  · cases h
  · next d hd =>
    split at h
    · cases h
    · next k hk =>
      cases h
      exact ⟨hd, hk⟩

/-- No command changes what KEY_DERIVE derives (41_key_deriver.md R147). -/
theorem CommandFrame.keyDerive_eq {s t : State} (h : CommandFrame s t) : t.keyDerive = s.keyDerive := by
  obtain ⟨hargs, hlen, -, -, -⟩ := h.inputs
  have hk : packKey t.keySource = packKey s.keySource := packKey_congr fun i hi => by
    rw [State.keySource, State.passByte, hlen, h.buffers (passAt i) (by simp only [passAt]; omega), State.keySource,
      State.passByte]
  rw [State.keyDerive, State.passPresent, hargs, hlen, hk, State.keyDerive, State.passPresent]

/-- HASH.REENTRANT of an admitted slot runs on it (44_hash_context.md R230, R234). -/
theorem State.hash_reentrant {s : State} {c : Nat} (h : 1 ≤ c) (hc : c < s.cfg.nCtx) :
    s.hash .reentrant c = s.hashOn c := by
  have hi : s.indexOk c = true := by simp [State.indexOk, hc, Nat.ne_of_gt h]
  have hr : s.resolveContext .reentrant c = .ok c := if_pos hi
  rw [State.hash_of_ok hr]
  rfl

/-- A good salt and passphrase run the four commands, and OUTW0..OUTW3 then hold the output string's image (R202, R204). -/
theorem exec_pipeline {s : State} {d : DecodedSalt} {k : Block} (hd : s.saltDecode = .ok d) (hk : s.keyDerive = .ok k) :
    ∃ s1 s2 s3 s4 : State, exec .saltDecode s = .next s1 ∧ exec .keyDerive s1 = .next s2 ∧
      exec .digest s2 = .next s3 ∧ exec .outEncode s3 = .next s4 ∧
      s1.regs.ok = true ∧ s2.regs.ok = true ∧ s3.regs.ok = true ∧ s4.regs.ok = true ∧
      ∀ j, j < 14 →
        ([s4.regs.outW0, s4.regs.outW1, s4.regs.outW2, s4.regs.outW3].getD (j / 4) 0#32).extractLsb' (8 * (j % 4)) 8 =
          (outString d.ch0 d.ch1 (Des.digest k d.salt)).getD j 0#8 := by
  have h1 := exec_saltDecode_of_ok hd
  have h2 := exec_keyDerive_of_ok ((exec_frame h1).keyDerive_eq.trans hk)
  refine ⟨_, _, _, _, h1, h2, exec_digest _, exec_outEncode _, rfl, rfl, rfl, rfl, fun j hj => ?_⟩
  simp only [State.successEpilogue_eq, State.setRegs, Regs.setOutW]
  rw [extractLsb'_imageWords _ (by omega), State.outImage, List.getD_append _ _ _ _ (by rwa [outString_length])]
  simp only [State.digestBlock, State.keyBlock, Regs.setDigest, Regs.setKey, Regs.setSaltCh, Regs.setSaltNum, block_halves,
    BitVec.extractLsb'_append_eq_right, BitVec.extractLsb'_append_eq_left]

/-- Settles O40: both write the output string of the salt and the key that HASH's validation yields. -/
theorem pipelineEqualsHash : Obligations.PipelineEqualsHash := by
  intro s c v0 v1 h hc hn h0 h1
  obtain ⟨hd, hk⟩ := State.hashInputs_eq_ok (by rw [State.hashInputs_eq, hn, h0, h1])
  obtain ⟨s1, s2, s3, s4, e1, e2, e3, e4, ok1, ok2, ok3, ok4, hout⟩ := exec_pipeline hd hk
  obtain ⟨⟨hregs, -⟩, -, hbytes⟩ := State.hashOn_ok s c v0 v1 hn h0 h1
  refine ⟨s1, s2, s3, s4, s.hashOn c, e1, e2, e3, e4, ?_, ok1, ok2, ok3, ok4, ?_, fun j hj => ?_⟩
  · rw [← State.hash_reentrant h hc]
    exact exec_hashOf s .reentrant c
  · rw [hregs]
  · rw [hout j hj, hbytes, State.byteAfterHash_output _ _ _ _ (by rwa [outString_length])]

end Sys2Proof.Machine

namespace Sys2Proof.Machine

/-! ## The key's bytes (41_key_deriver.md R142) -/

/-- A byte pushed into a block from the right is its lowest byte. -/
theorem extractLsb'_pushByte_zero (k : Block) (b : Byte) : (k <<< 8 ||| b.setWidth 64).extractLsb' 0 8 = b := by
  apply BitVec.eq_of_getLsbD_eq
  intro n hn
  simp [hn, show n < 64 by omega]

/-- A byte pushed into a block from the right moves the bytes there one place up. -/
theorem extractLsb'_pushByte_succ (k : Block) (b : Byte) {j : Nat} (hj : j < 7) :
    (k <<< 8 ||| b.setWidth 64).extractLsb' (8 * (j + 1)) 8 = k.extractLsb' (8 * j) 8 := by
  apply BitVec.eq_of_getLsbD_eq
  intro n hn
  rw [BitVec.getLsbD_extractLsb', BitVec.getLsbD_or, BitVec.getLsbD_shiftLeft, BitVec.getLsbD_setWidth,
    BitVec.getLsbD_of_ge b _ (by omega), BitVec.getLsbD_extractLsb', show 8 * (j + 1) + n - 8 = 8 * j + n by omega]
  simp [show 8 * (j + 1) + n < 64 by omega, show ¬ 8 * (j + 1) + n < 8 by omega]

/-- Of the first m key bytes pushed in order, the last one stands lowest. -/
theorem extractLsb'_pushKeyBytes (b : Nat → Byte) {m i : Nat} (hm : m ≤ 8) (hi : i < m) :
    ((List.range m).foldl (fun (k : Block) i => k <<< 8 ||| (keyByte (b i)).setWidth 64) 0#64).extractLsb'
      (8 * (m - 1 - i)) 8 = keyByte (b i) := by
  induction m with
  | zero => omega
  | succ m ih =>
    rw [List.range_succ, List.foldl_append, List.foldl_cons, List.foldl_nil]
    rcases Nat.lt_succ_iff_lt_or_eq.1 hi with hlt | rfl
    · rw [show m + 1 - 1 - i = (m - 1 - i) + 1 by omega, extractLsb'_pushByte_succ _ _ (by omega), ih (by omega) hlt]
    · rw [show 8 * (i + 1 - 1 - i) = 0 by omega, extractLsb'_pushByte_zero]

/-- Key byte i stands in K[63 - 8 i : 56 - 8 i] (R142). -/
theorem extractLsb'_packKey (b : Nat → Byte) {i : Nat} (hi : i < 8) :
    (packKey b).extractLsb' (56 - 8 * i) 8 = keyByte (b i) := by
  rw [show 56 - 8 * i = 8 * (8 - 1 - i) by omega]
  exact extractLsb'_pushKeyBytes b (Nat.le_refl 8) hi

/-- A key byte is the passphrase byte shifted left by one, or 0 beyond the passphrase's end (R142). -/
theorem State.keyByte_keySource (s : State) (i : Nat) :
    keyByte (s.keySource i) = if i < s.regs.passLen.toNat then s.byteAt (0x1000 + i) <<< 1 else 0#8 := by
  unfold keySource
  split_ifs
  · rfl
  · decide

/-! ## KEY_DERIVE (41_key_deriver.md R145-R148) -/

theorem State.keyDerive_absent {s : State} (hp : s.passPresent = false) : s.keyDerive = .error .invalidArgument :=
  if_pos hp

theorem State.keyDerive_tooLong {s : State} (hp : s.passPresent = true) (hl : 512 ≤ s.regs.passLen.toNat) :
    s.keyDerive = .error .passphraseTooLong := by
  simp [State.keyDerive, hp, Config.passMax, hl]

theorem State.keyDerive_good {s : State} (hp : s.passPresent = true) (hl : s.regs.passLen.toNat < 512) :
    s.keyDerive = .ok (packKey s.keySource) := by
  simp [State.keyDerive, hp, Config.passMax, Nat.not_le.2 hl]

/-- Settles O18: the key is the packing of the passphrase's first eight bytes. -/
theorem keyDeriveResult : Obligations.KeyDeriveResult := by
  intro s hp hl
  refine ⟨packKey s.keySource, fun i hi => ?_, ?_⟩
  · rw [extractLsb'_packKey _ hi, State.keyByte_keySource]
  · rw [exec_keyDerive_of_ok (State.keyDerive_good hp hl), State.successEpilogue_eq]
    rfl

/-- Settles O19: each clause is one branch of the derivation. -/
theorem keyDeriveFailsInOrder : Obligations.KeyDeriveFailsInOrder := by
  refine fun s => ⟨fun hp => ?_, fun hp hl => ?_⟩
  · rw [exec_keyDerive_of_error (State.keyDerive_absent hp), State.failureEpilogue_none, ErrCode.value]
  · rw [exec_keyDerive_of_error (State.keyDerive_tooLong hp hl), State.failureEpilogue_none, ErrCode.value]

end Sys2Proof.Machine

namespace Sys2Proof.Machine

/-! ## DIGEST (42_digest_engine.md R160, R178) -/

/-- Settles O21: the datapath's run is the digest function, and the success epilogue clears the hidden registers. -/
theorem digestResult : Obligations.DigestResult := by
  intro s
  rw [exec_digest, State.successEpilogue_eq]
  rfl

/-! ## The initial and the final permutation (42_digest_engine.md R162, R163) -/

/-- Bit i of an outer permutation T is read at place `w - n` of the inner one S, n being T's entry for i; where that is
read in turn at place i, for every i, T undoes S. -/
theorem Des.perm_perm_cancel {w : Nat} {S T : List Nat} (hS : S.length = w) (hT : T.length = w)
    (h : ∀ i < w, w - T.reverse.getD i 0 < w ∧ w - S.reverse.getD (w - T.reverse.getD i 0) 0 = i) (v : BitVec w) :
    Des.perm T w (Des.perm S w v) = v := by
  apply BitVec.eq_of_getLsbD_eq
  intro i hi
  obtain ⟨hplace, hback⟩ := h i hi
  rw [Des.getLsbD_perm T w _ i hT, Des.desbit, Des.getLsbD_perm S w v _ hS, Des.desbit, hback, decide_eq_true hi,
    decide_eq_true hplace, Bool.true_and, Bool.true_and]

theorem Des.fp_ip (b : Block) : Des.fp (Des.ip b) = b := Des.perm_perm_cancel (w := 64) rfl rfl (by decide) b

theorem Des.ip_fp (b : Block) : Des.ip (Des.fp b) = b := Des.perm_perm_cancel (w := 64) rfl rfl (by decide) b

/-- Settles O22: each table names the other's places. -/
theorem finalPermutationInvertsInitial : Obligations.FinalPermutationInvertsInitial :=
  fun b => ⟨Des.fp_ip b, Des.ip_fp b⟩

/-! ## The salt swap (42_digest_engine.md R165)

Bits 47 - k and 23 - k stand 24 places apart, so bit i belongs to the pair of `k = 23 - i % 24` and its partner is bit
`(i + 24) % 48`; where that k is above 11 there is no salt bit, and `getLsbD` reads false. -/

/-- After the first m steps of the salt swap, the bits of the selected pairs below m are exchanged. -/
theorem Des.getLsbD_saltSwap_prefix (e : BitVec 48) (s : BitVec 12) {m i : Nat} (hm : m ≤ 12) (hi : i < 48) :
    ((List.range m).foldl (fun e k => if s.getLsbD k then Des.swapBits e (47 - k) (23 - k) else e) e).getLsbD i =
      e.getLsbD (if 23 - i % 24 < m ∧ s.getLsbD (23 - i % 24) then (i + 24) % 48 else i) := by
  induction m generalizing i with
  | zero => simp
  | succ m ih =>
    rw [List.range_succ, List.foldl_append, List.foldl_cons, List.foldl_nil]
    by_cases hpair : 23 - i % 24 = m
    · have hplace : i = 47 - m ∨ i = 23 - m := by omega
      rw [hpair]
      cases hs : s.getLsbD m with
      | false => simp [ih (by omega) hi, hpair]
      | true =>
        rw [if_pos rfl, Des.getLsbD_swapBits _ _ _ _ (by omega) (by omega) (by omega),
          if_pos (And.intro (Nat.lt_succ_self m) rfl)]
        rcases hplace with rfl | rfl
        · rw [if_pos rfl, ih (by omega) (by omega), if_neg (by omega), show (47 - m + 24) % 48 = 23 - m by omega]
        · rw [if_neg (by omega), if_pos rfl, ih (by omega) (by omega), if_neg (by omega),
            show (23 - m + 24) % 48 = 47 - m by omega]
    · have hlt : 23 - i % 24 < m + 1 ↔ 23 - i % 24 < m := by omega
      simp only [hlt]
      rw [← ih (by omega) hi]
      split
      · rw [Des.getLsbD_swapBits _ _ _ _ (by omega) (by omega) (by omega), if_neg (by omega), if_neg (by omega)]
      · rfl

/-- Bit i of the salt swap is its partner's bit where the pair's salt bit is set. -/
theorem Des.getLsbD_saltSwap (e : BitVec 48) (s : BitVec 12) {i : Nat} (hi : i < 48) :
    (Des.saltSwap e s).getLsbD i = e.getLsbD (if s.getLsbD (23 - i % 24) then (i + 24) % 48 else i) := by
  rw [Des.saltSwap, Des.getLsbD_saltSwap_prefix e s (Nat.le_refl 12) hi]
  simp only [and_iff_right_of_imp (BitVec.lt_of_getLsbD (x := s))]

/-- Bits 0 to 11 and 24 to 35 belong to no pair. -/
theorem Des.getLsbD_saltSwap_of_unpaired (e : BitVec 48) (s : BitVec 12) {i : Nat} (hi : i < 48) (h : i % 24 < 12) :
    (Des.saltSwap e s).getLsbD i = e.getLsbD i := by
  rw [Des.getLsbD_saltSwap e s hi, BitVec.getLsbD_of_ge s _ (by omega)]
  rfl

/-- A bit's partner belongs to the same pair, and its partner is the bit itself: the salt swap undoes itself. -/
theorem Des.saltSwap_saltSwap (e : BitVec 48) (s : BitVec 12) : Des.saltSwap (Des.saltSwap e s) s = e := by
  apply BitVec.eq_of_getLsbD_eq
  intro i hi
  rw [Des.getLsbD_saltSwap _ _ hi]
  cases hs : s.getLsbD (23 - i % 24) with
  | false => simp [Des.getLsbD_saltSwap _ _ hi, hs]
  | true =>
    rw [if_pos rfl, Des.getLsbD_saltSwap _ _ (by omega), show (i + 24) % 48 % 24 = i % 24 by omega, hs, if_pos rfl,
      show ((i + 24) % 48 + 24) % 48 = i by omega]

/-- Settles O23: the pair of bits 47 - k and 23 - k is that of salt bit k, and the other bits have no salt bit. -/
theorem saltSwapExchangesThePairs : Obligations.SaltSwapExchangesThePairs := by
  refine fun e s => ⟨fun k hk => ⟨?_, ?_⟩, fun i hi => ⟨?_, ?_⟩, Des.saltSwap_saltSwap e s⟩
  · rw [Des.getLsbD_saltSwap e s (by omega), show 23 - (47 - k) % 24 = k by omega,
      show (47 - k + 24) % 48 = 23 - k by omega, apply_ite e.getLsbD]
  · rw [Des.getLsbD_saltSwap e s (by omega), show 23 - (23 - k) % 24 = k by omega,
      show (23 - k + 24) % 48 = 47 - k by omega, apply_ite e.getLsbD]
  · exact Des.getLsbD_saltSwap_of_unpaired e s (by omega) (by omega)
  · exact Des.getLsbD_saltSwap_of_unpaired e s (by omega) (by omega)

end Sys2Proof.Machine

namespace Sys2Proof.Machine

/-! ## OUT_ENCODE (43_output_encoder.md R200, R202, R204) -/

/-- Symbol i of the digest is byte i + 2 of the image, after the two salt characters (R202). -/
theorem State.outImage_getD_symbol (s : State) {i : Nat} (hi : i < 11) :
    s.outImage.getD (i + 2) 0#8 = digestSymbol s.digestBlock i := by
  rw [State.outImage, List.getD_append _ _ _ _ (by rw [outString_length]; omega), outString, List.getD_cons_succ,
    List.getD_cons_succ, List.getD_append _ _ _ _ (by simpa [encode11, Config.outChars] using hi)]
  simp [encode11, Config.outChars, hi]

/-- A word's upper 24 bits are those of the word of its bytes from the second on. -/
theorem extractLsb'_leWord_cons (b : Byte) (bs : List Byte) :
    (leWord (b :: bs)).extractLsb' 8 24 = (leWord bs).extractLsb' 0 24 := by
  have hcons : leWord (b :: bs) = leWord bs <<< 8 ||| b.setWidth 32 := rfl
  apply BitVec.eq_of_getLsbD_eq
  intro i hi
  rw [hcons, BitVec.getLsbD_extractLsb', BitVec.getLsbD_or, BitVec.getLsbD_shiftLeft, BitVec.getLsbD_setWidth,
    BitVec.getLsbD_of_ge b _ (by omega), BitVec.getLsbD_extractLsb', show 8 + i - 8 = 0 + i by omega]
  simp [show 8 + i < 32 by omega]

/-- The image's last word is the last symbol and three zero bytes: the string's NUL and the two after it (R202, R204). -/
theorem State.imageWord_outImage_three (s : State) :
    imageWord s.outImage 3 = leWord [digestSymbol s.digestBlock 10, 0x00#8, 0x00#8, 0x00#8] := rfl

/-- Settles O27: the words are those of the image, whose bytes are the salt characters, the symbols and zeros. -/
theorem outEncodeResult : Obligations.OutEncodeResult := by
  refine ⟨by decide, fun s => ⟨imageWord s.outImage 0, imageWord s.outImage 1, imageWord s.outImage 2,
    imageWord s.outImage 3, ?_, ?_, ?_, fun i hi => ?_, ?_⟩⟩
  · rw [exec_outEncode, State.successEpilogue_eq]
    rfl
  · exact extractLsb'_imageWords s.outImage (j := 0) (by decide)
  · exact extractLsb'_imageWords s.outImage (j := 1) (by decide)
  · rw [extractLsb'_imageWords s.outImage (by omega), State.outImage_getD_symbol s hi, digestSymbol,
      BitVec.setWidth_eq_extractLsb' (by decide), State.digestBlock]
  · rw [State.imageWord_outImage_three, extractLsb'_leWord_cons]
    rfl

end Sys2Proof.Machine

namespace Sys2Proof.Machine

/-! ## NOP and CTX_INIT (44_hash_context.md R223, R235, R236) -/

/-- Settles O9, by `decode_eq_nop`. -/
theorem nopChangesNothing : Obligations.NopChangesNothing := by
  refine ⟨fun s => rfl, fun w => ⟨decode_eq_nop, ?_⟩⟩
  rintro rfl
  rfl

theorem exec_ctxInit_of_lt {s : State} {c : Nat} (h : c < s.cfg.nCtx) :
    exec (.ctxInit c) s = .next (s.ensureInitialized c).successEpilogue :=
  if_neg (Nat.not_le_of_lt h)

theorem exec_ctxInit_of_ge {s : State} {c : Nat} (h : s.cfg.nCtx ≤ c) :
    exec (.ctxInit c) s = .next (s.failureEpilogue .invalidArgument none) :=
  if_pos h

theorem State.ensureInitialized_of_initialized {s : State} {c : Nat} (h : s.initWord c ≠ 0#32) :
    s.ensureInitialized c = s :=
  if_neg h

theorem State.initWord_ensureInitialized_of_fresh {s : State} {c : Nat} (h : s.initWord c = 0#32) :
    (s.ensureInitialized c).initWord c = 1#32 := by
  rw [State.ensureInitialized, if_pos h, State.initWord, State.readLE_writeLE _ _ _ _ (Nat.le_refl 4)]
  rfl

/-- Ensure-initialized leaves its slot initialized. -/
theorem State.initWord_ensureInitialized_ne_zero (s : State) (c : Nat) : (s.ensureInitialized c).initWord c ≠ 0#32 := by
  by_cases h : s.initWord c = 0#32
  · rw [State.initWord_ensureInitialized_of_fresh h]
    decide
  · rwa [State.ensureInitialized_of_initialized h]

theorem State.initWord_successEpilogue (s : State) (c : Nat) : s.successEpilogue.initWord c = s.initWord c :=
  State.readLE_congr fun _ _ => State.byteAt_successEpilogue ..

theorem State.successEpilogue_successEpilogue (s : State) : s.successEpilogue.successEpilogue = s.successEpilogue := by
  simp only [State.successEpilogue_eq]

theorem State.failureEpilogue_failureEpilogue (s : State) (e : ErrCode) :
    (s.failureEpilogue e none).failureEpilogue e none = s.failureEpilogue e none := by
  simp only [State.failureEpilogue_none]

/-- Settles O10: the bytes are those of ensure-initialized on a fresh slot. -/
theorem ctxInitZeroesAFreshSlot : Obligations.CtxInitZeroesAFreshSlot := by
  intro s c hc hfresh
  refine ⟨_, exec_ctxInit_of_lt hc, ?_, ?_, ?_, fun j hj hinit => ?_, fun b hb => ?_⟩
  · simp [State.OnlyStatus, State.successEpilogue_eq]
  · simp [State.successEpilogue_eq]
  · rw [State.initWord_successEpilogue, State.initWord_ensureInitialized_of_fresh hfresh]
  · rw [State.byteAt_successEpilogue, State.byteAt_ensureInitialized,
      if_pos ⟨hfresh, by simp only [slotAt]; omega⟩, if_neg (by simp only [initAt, slotAt]; omega)]
  · rw [State.byteAt_successEpilogue, State.byteAt_ensureInitialized, if_neg (by simp only [slotAt] at *; omega)]

/-- Settles O11: ensure-initialized does nothing, or the slot does not exist. -/
theorem ctxInitOtherwiseOnlyReports : Obligations.CtxInitOtherwiseOnlyReports := by
  refine fun s c => ⟨fun hc hinit => ?_, fun hc => ?_⟩
  · rw [exec_ctxInit_of_lt hc, State.ensureInitialized_of_initialized hinit, State.successEpilogue_eq]
  · rw [exec_ctxInit_of_ge hc, State.failureEpilogue_none]
    rfl

/-- Settles O12: the second one finds the slot initialized, or absent as before, and its epilogue repeats the first one's. -/
theorem ctxInitIsIdempotent : Obligations.CtxInitIsIdempotent := by
  intro s t u c ht hu
  have hcfg : t.cfg = s.cfg := (exec_frame ht).cfg
  by_cases hc : c < s.cfg.nCtx
  · cases (exec_ctxInit_of_lt hc).symm.trans ht
    cases (exec_ctxInit_of_lt (hcfg ▸ hc)).symm.trans hu
    have hinit : (s.ensureInitialized c).successEpilogue.initWord c ≠ 0#32 := by
      rw [State.initWord_successEpilogue]
      exact s.initWord_ensureInitialized_ne_zero c
    rw [State.ensureInitialized_of_initialized hinit, State.successEpilogue_successEpilogue]
  · cases (exec_ctxInit_of_ge (Nat.le_of_not_lt hc)).symm.trans ht
    cases (exec_ctxInit_of_ge (hcfg ▸ Nat.le_of_not_lt hc)).symm.trans hu
    rw [State.failureEpilogue_failureEpilogue]

end Sys2Proof.Machine

namespace Sys2Proof.Machine

/-! ## The slot that a HASH resolves (44_hash_context.md R222, R230-R233) -/

/-- The index check admits the caller-owned slots that exist (R230). -/
theorem State.indexOk_iff (s : State) (c : Nat) : s.indexOk c = true ↔ 1 ≤ c ∧ c < s.cfg.nCtx := by
  simp [State.indexOk, Nat.one_le_iff_ne_zero]

section
variable {s : State} {c : Nat} (h : 1 ≤ c) (hc : c < s.cfg.nCtx)
include h hc

theorem State.resolveContext_reentrant : s.resolveContext .reentrant c = .ok c :=
  if_pos ((s.indexOk_iff c).2 ⟨h, hc⟩)

theorem State.resolveContext_sized_of_lt (hsize : s.regs.ctxSize.toNat < 33280) :
    s.resolveContext .sized c = .error .rangeError :=
  (if_pos ((s.indexOk_iff c).2 ⟨h, hc⟩)).trans (if_pos hsize)

theorem State.resolveContext_sized_of_ge (hsize : 33280 ≤ s.regs.ctxSize.toNat) : s.resolveContext .sized c = .ok c :=
  (if_pos ((s.indexOk_iff c).2 ⟨h, hc⟩)).trans (if_neg (Nat.not_lt_of_le hsize))

theorem State.resolveContext_growing_of_false (hdraw : Config.allocDraw s.allocDraws = false) :
    s.resolveContext .growing c = .error .allocationError :=
  (if_pos ((s.indexOk_iff c).2 ⟨h, hc⟩)).trans (if_neg (by simp [hdraw]))

theorem State.resolveContext_growing_of_true (hdraw : Config.allocDraw s.allocDraws = true) :
    s.resolveContext .growing c = .ok c :=
  (if_pos ((s.indexOk_iff c).2 ⟨h, hc⟩)).trans (if_pos hdraw)

theorem State.afterResolve_growing : s.afterResolve .growing c = s.countDraw :=
  if_pos ⟨rfl, (s.indexOk_iff c).2 ⟨h, hc⟩⟩

end

theorem State.resolveContext_of_not_indexOk {s : State} {m : HashMode} {c : Nat} (hm : m ≠ .shared)
    (hc : ¬ s.indexOk c = true) : s.resolveContext m c = .error .invalidArgument := by
  cases m with
  | shared => exact absurd rfl hm
  | reentrant | sized | growing => exact if_neg hc

theorem State.afterResolve_of_ne_growing {s : State} {m : HashMode} {c : Nat} (hm : m ≠ .growing) :
    s.afterResolve m c = s :=
  if_neg fun h => hm h.1

theorem State.afterResolve_of_not_indexOk {s : State} {m : HashMode} {c : Nat} (hc : ¬ s.indexOk c = true) :
    s.afterResolve m c = s :=
  if_neg fun h => hc h.2

/-! ### Counting the draw matters to nothing that HASH reads -/

theorem State.saltByte_afterResolve (s : State) (m : HashMode) (c i : Nat) :
    (s.afterResolve m c).saltByte i = s.saltByte i :=
  State.byteAt_afterResolve ..

theorem State.keySource_afterResolve (s : State) (m : HashMode) (c : Nat) :
    (s.afterResolve m c).keySource = s.keySource := by
  unfold State.afterResolve
  split <;> rfl

theorem State.failureToken_afterResolve (s : State) (m : HashMode) (c : Nat) :
    (s.afterResolve m c).failureToken = s.failureToken := by
  unfold State.afterResolve
  split <;> rfl

/-- What is only a status after the draw was counted is only a status before: the count is no part of it (log 4). -/
theorem State.OnlyStatus.of_afterResolve {s t : State} {m : HashMode} {c : Nat} {ok : Bool} {code : BitVec 4}
    (h : (s.afterResolve m c).OnlyStatus t ok code) : s.OnlyStatus t ok code := by
  obtain ⟨hregs, hcfg, -, hepoch, hbus, hreply, -⟩ := s.afterResolve_fields m c
  simpa only [State.OnlyStatus, hregs, hcfg, hepoch, hbus, hreply] using h

/-! ## What a HASH leaves (44_hash_context.md R221) -/

theorem State.onlyStatus_failureEpilogue (s : State) (e : ErrCode) :
    s.OnlyStatus (s.failureEpilogue e none) false e.value := by
  rw [State.failureEpilogue_none]
  exact ⟨rfl, rfl, rfl, rfl, rfl, rfl⟩

theorem State.hash_allocDraws (s : State) (m : HashMode) (c : Nat) :
    (s.hash m c).allocDraws = (s.afterResolve m c).allocDraws := by
  cases hr : s.resolveContext m c with
  | error e => rw [State.hash_of_error hr, State.failureEpilogue_none]
  | ok slot =>
    rw [State.hash_of_ok hr]
    rcases State.hashOn_cases (s.afterResolve m c) slot with ⟨_, _, _, h, _⟩ | ⟨_, _, _, _, _, _, h, _⟩ <;> exact h

theorem State.hash_allocDraws_of_ne_growing (s : State) {m : HashMode} (c : Nat) (hm : m ≠ .growing) :
    (s.hash m c).allocDraws = s.allocDraws := by
  rw [State.hash_allocDraws, State.afterResolve_of_ne_growing hm]

section
variable {s : State} {m : HashMode} {c : Nat}

/-- A HASH that fails in phase 1 only reports: it has no slot to write (R222, R228). -/
theorem State.hash_unresolved {e : ErrCode} (hr : s.resolveContext m c = .error e) :
    s.OnlyStatus (s.hash m c) false e.value ∧ (s.hash m c).mem = s.mem := by
  obtain ⟨-, -, hmem, -⟩ := s.afterResolve_fields m c
  rw [State.hash_of_error hr]
  exact ⟨(State.onlyStatus_failureEpilogue _ e).of_afterResolve, by rw [State.failureEpilogue_none_mem, hmem]⟩

/-- A HASH on a resolved slot with unacceptable inputs leaves the failure token there (R224, R226). -/
theorem State.hash_leavesToken {slot : Nat} {e : ErrCode} (hr : s.resolveContext m c = .ok slot)
    (he : s.firstHashError = some e) :
    s.OnlyStatus (s.hash m c) false e.value ∧
      ∀ b, (s.hash m c).byteAt b = s.byteAfterHash slot s.failureToken b := by
  rw [← s.firstHashError_afterResolve m c] at he
  obtain ⟨hstatus, -, hbytes⟩ := State.hashOn_error (s.afterResolve m c) slot e he
  rw [State.hash_of_ok hr]
  refine ⟨hstatus.of_afterResolve, fun b => ?_⟩
  rw [hbytes, State.byteAfterHash_afterResolve, State.failureToken_afterResolve]

/-- The string that HASH writes for the salt of the indices `v0` and `v1` (R227). -/
abbrev State.hashString (s : State) (v0 v1 : BitVec 6) : List Byte :=
  outString (s.saltByte 0) (s.saltByte 1) (Des.digest (packKey s.keySource) (v1 ++ v0))

/-- A HASH on a resolved slot with acceptable inputs writes the output string there (R227). -/
theorem State.hash_writesString {slot : Nat} {v0 v1 : BitVec 6} (hr : s.resolveContext m c = .ok slot)
    (he : s.firstHashError = none) (h0 : decode6 (s.saltByte 0) = some v0) (h1 : decode6 (s.saltByte 1) = some v1) :
    s.OnlyStatus (s.hash m c) true 0#4 ∧
      ∀ b, (s.hash m c).byteAt b = s.byteAfterHash slot (s.hashString v0 v1) b := by
  rw [← s.firstHashError_afterResolve m c] at he
  rw [← s.saltByte_afterResolve m c] at h0 h1
  obtain ⟨hstatus, -, hbytes⟩ := State.hashOn_ok (s.afterResolve m c) slot v0 v1 he h0 h1
  rw [State.hash_of_ok hr]
  refine ⟨hstatus.of_afterResolve, fun b => ?_⟩
  rw [hbytes, State.byteAfterHash_afterResolve, State.saltByte_afterResolve, State.saltByte_afterResolve,
    State.keySource_afterResolve]

/-- Success or failure, a HASH on a resolved slot leaves a short text at the start of OUTPUT (R221). -/
theorem State.hash_resolved_bytes {slot : Nat} (hr : s.resolveContext m c = .ok slot) :
    ∃ out : List Byte, out.length ≤ 14 ∧ ∀ b, (s.hash m c).byteAt b = s.byteAfterHash slot out b := by
  cases he : s.firstHashError with
  | some e => exact ⟨s.failureToken, by simp [State.failureToken], (State.hash_leavesToken hr he).2⟩
  | none =>
    obtain ⟨v0, v1, h0, h1⟩ := State.decode6_of_noError he
    exact ⟨s.hashString v0 v1, (outString_length ..).le, (State.hash_writesString hr he h0 h1).2⟩

end

/-! ## The statements about HASH -/

/-- Settles O29: SHARED resolves to slot 0. -/
theorem hashSharedWritesTheString : Obligations.HashSharedWritesTheString := by
  intro s v0 v1 he h0 h1
  obtain ⟨hstatus, hbytes⟩ := State.hash_writesString (m := .shared) (c := 0) rfl he h0 h1
  exact ⟨_, exec_hashOf s .shared 0, hstatus, s.hash_allocDraws_of_ne_growing 0 (by decide), hbytes⟩

/-- Settles O30: REENTRANT resolves to the admitted slot. -/
theorem hashReentrantWritesTheString : Obligations.HashReentrantWritesTheString := by
  intro s c v0 v1 h hc he h0 h1
  obtain ⟨hstatus, hbytes⟩ := State.hash_writesString (State.resolveContext_reentrant h hc) he h0 h1
  exact ⟨_, exec_hashOf s .reentrant c, hstatus, s.hash_allocDraws_of_ne_growing c (by decide), hbytes⟩

/-- Settles O31: SIZED resolves to the admitted slot when CTX_SIZE is large enough. -/
theorem hashSizedWritesTheString : Obligations.HashSizedWritesTheString := by
  intro s c v0 v1 h hc hsize he h0 h1
  obtain ⟨hstatus, hbytes⟩ := State.hash_writesString (State.resolveContext_sized_of_ge h hc hsize) he h0 h1
  exact ⟨_, exec_hashOf s .sized c, hstatus, s.hash_allocDraws_of_ne_growing c (by decide), hbytes⟩

/-- Settles O32: the draw is taken in resolution, and decides it. -/
theorem hashGrowingFollowsTheDraw : Obligations.HashGrowingFollowsTheDraw := by
  intro s c h hc
  refine ⟨_, exec_hashOf s .growing c, ?_, fun hdraw => ?_, fun hdraw v0 v1 he h0 h1 => ?_⟩
  · rw [State.hash_allocDraws, State.afterResolve_growing h hc, State.countDraw_allocDraws]
  · exact State.hash_unresolved (State.resolveContext_growing_of_false h hc hdraw)
  · exact State.hash_writesString (State.resolveContext_growing_of_true h hc hdraw) he h0 h1

/-- Settles O33, by `State.hash_leavesToken`. -/
theorem hashFailureLeavesTheToken : Obligations.HashFailureLeavesTheToken := by
  intro s m c slot e hr he
  obtain ⟨hstatus, hbytes⟩ := State.hash_leavesToken hr he
  exact ⟨_, exec_hashOf s m c, hstatus, hbytes⟩

/-- Settles O34: the index check fails, and it comes before the draw. -/
theorem hashRefusesTheNullContext : Obligations.HashRefusesTheNullContext := by
  intro s m c hm hc
  have hi : ¬ s.indexOk c = true := by
    rw [State.indexOk_iff]
    omega
  rw [exec_hashOf, State.hash_of_error (State.resolveContext_of_not_indexOk hm hi), State.afterResolve_of_not_indexOk hi,
    State.failureEpilogue_none]
  rfl

/-- Settles O35: a small CTX_SIZE fails in resolution, and a large one resolves to the slot that REENTRANT resolves to. -/
theorem hashSizedChecksTheSize : Obligations.HashSizedChecksTheSize := by
  intro s c h hc
  have hsized : exec (.hashSized c) s = .next (s.hash .sized c) := exec_hashOf s .sized c
  have hreent : exec (.hashReentrant c) s = .next (s.hash .reentrant c) := exec_hashOf s .reentrant c
  have hdraw : s.afterResolve .sized c = s := State.afterResolve_of_ne_growing (by decide)
  refine ⟨fun hsize => ?_, fun hsize => ?_⟩
  · rw [hsized, State.hash_of_error (State.resolveContext_sized_of_lt h hc hsize), hdraw, State.failureEpilogue_none]
    rfl
  · rw [hsized, hreent, State.hash_of_ok (State.resolveContext_sized_of_ge h hc hsize), hdraw, State.hash_reentrant h hc]

/-- Settles O36: the text at the start of OUTPUT does not reach SCRATCH, and an unresolved HASH writes nothing. -/
theorem everyHashScrubsItsSlot : Obligations.EveryHashScrubsItsSlot := by
  intro s t m c h
  cases (exec_hashOf s m c).symm.trans h
  refine ⟨fun slot hr j hj => ?_, fun e hr => (State.hash_unresolved hr).2⟩
  obtain ⟨out, hlen, hbytes⟩ := State.hash_resolved_bytes hr
  rw [hbytes, State.byteAfterHash_scratch s slot out (by omega) j hj]

theorem hashOf_ne_nop (m : HashMode) (c : Nat) : hashOf m c ≠ .nop := by cases m <;> simp [hashOf]

/-- Settles O39, by `State.hash_regs` and `State.hash_setRegs`. -/
theorem hashIgnoresComponentRegisters : Obligations.HashIgnoresComponentRegisters := by
  intro s t m c encArg encRes saltNum saltCh keyLo keyHi digLo digHi outW0 outW1 outW2 outW3 h
  obtain ⟨hhidden, -⟩ := exec_reported (hashOf_ne_nop m c) h
  injection (exec_hashOf s m c).symm.trans h with h
  have hregs : t.regs = s.regs.setStatus t.regs.ok t.regs.code := h ▸ s.hash_regs m c
  refine ⟨hhidden, hregs, ?_⟩
  rw [exec_hashOf]
  -- The other state is `s` with its register page replaced.
  change Host.Outcome.next ((s.setRegs _).hash m c) = _
  rw [State.hash_setRegs s m c, h, hregs]
  all_goals rfl

end Sys2Proof.Machine

namespace Sys2Proof.Machine

/-! ## The bus and the last answer are no input (60_exceptions.md R271, R274) -/

/-- A command does one thing whatever accesses are to come and whatever the last one answered. -/
theorem exec_complete (i : Instr) (s : State) :
    ∃ t : State, ∀ es p, exec i (s.complete es p) = .next (t.complete es p) := by
  have hash : ∀ m c, ∃ t : State, ∀ es p, exec (hashOf m c) (s.complete es p) = .next (t.complete es p) := fun m c =>
    ⟨s.hash m c, fun es p => by rw [exec_hashOf, State.hash_complete]⟩
  cases i with
  | nop => exact ⟨s, fun _ _ => rfl⟩
  | hashShared => exact hash .shared 0
  | hashReentrant c => exact hash .reentrant c
  | hashSized c => exact hash .sized c
  | hashGrowing c => exact hash .growing c
  | ctxInit c =>
    rcases Nat.lt_or_ge c s.cfg.nCtx with hc | hc
    · refine ⟨(s.ensureInitialized c).successEpilogue, fun es p => ?_⟩
      rw [exec_ctxInit_of_lt (by simpa using hc), State.ensureInitialized_complete, State.successEpilogue_complete]
    · exact ⟨s.failureEpilogue .invalidArgument none, fun _ _ => exec_ctxInit_of_ge hc⟩
  | saltDecode =>
    cases hd : s.saltDecode with
    | error e => exact ⟨s.failureEpilogue e none, fun _ _ => exec_saltDecode_of_error hd⟩
    | ok d =>
      exact ⟨(s.setRegs ((s.regs.setSaltNum d.salt).setSaltCh (d.ch1 ++ d.ch0))).successEpilogue, fun _ _ =>
        exec_saltDecode_of_ok hd⟩
  | encode6 =>
    rcases Nat.lt_or_ge 63 s.regs.encArg.toNat with ha | ha
    · exact ⟨s.failureEpilogue .invalidArgument none, fun _ _ => exec_encode6_of_gt ha⟩
    · exact ⟨(s.setRegs (s.regs.setEncRes (encode6 (s.regs.encArg.extractLsb' 0 6)))).successEpilogue, fun _ _ =>
        exec_encode6_of_le ha⟩
  | keyDerive =>
    cases hk : s.keyDerive with
    | error e => exact ⟨s.failureEpilogue e none, fun _ _ => exec_keyDerive_of_error hk⟩
    | ok k => exact ⟨(s.setRegs (s.regs.setKey k)).successEpilogue, fun _ _ => exec_keyDerive_of_ok hk⟩
  | digest =>
    exact ⟨(s.computeDigest s.keyBlock s.regs.saltNum).storeDigest.successEpilogue, fun _ _ => rfl⟩
  | outEncode =>
    exact ⟨(s.setRegs (s.regs.setOutW (imageWord s.outImage 0) (imageWord s.outImage 1) (imageWord s.outImage 2)
      (imageWord s.outImage 3))).successEpilogue, fun _ _ => rfl⟩

/-- A CMD word, legal or not, does one thing whatever accesses are to come and whatever the last one answered. -/
theorem runCommand_complete (w : Word) (s : State) :
    ∃ t : State, ∀ es p, runCommand w (s.complete es p) = .next (t.complete es p) := by
  unfold runCommand
  split
  · exact exec_complete _ s
  · exact ⟨s.illegalCommand, fun _ _ => rfl⟩

theorem State.hostWrite_complete (s : State) (es : List BusEvent) (p : Reply) (o n : Nat) (v : Word) :
    (s.complete es p).hostWrite o n v = (s.hostWrite o n v).complete es p := by
  unfold State.hostWrite
  split
  · split <;> rfl
  · exact State.writeBytes_complete ..

/-! ## An access does the same for every host -/

/-- An event that a step answers is no bus error. -/
theorem eventAdmitted_of_step {s t : State} {ev : BusEvent} {rest : List BusEvent} (hb : s.bus = ev :: rest)
    (h : step s = .next t) : eventAdmitted s.cfg ev = true := by
  rcases step_event hb with ⟨ha, -⟩ | ⟨-, f, hf⟩
  · exact ha
  · cases hf.symm.trans h

theorem exists_admit_of_isOk {cfg : Config} {addr n : Nat} (h : (admitAccess cfg addr n).isOk = true) :
    ∃ o, admitAccess cfg addr n = .ok o := by
  cases ha : admitAccess cfg addr n with
  | ok o => exact ⟨o, rfl⟩
  | error f => simp [ha, Except.isOk, Except.toBool] at h

/-- An admitted write, a command's among them, does one thing for every host, whom only the answer names (R271, R274). -/
theorem step_write_forall_host (s : State) {addr n o : Nat} (v : Word) (rest : List BusEvent)
    (ha : admitAccess s.cfg addr n = .ok o) :
    ∃ u : State, ∀ host, step { s with bus := .write host addr n v :: rest } = .next (u.complete rest (.writeDone host)) := by
  by_cases ho : o = 0
  · subst ho
    obtain ⟨rfl, rfl⟩ := admit_cmd ha
    obtain ⟨u, hu⟩ := runCommand_complete v s
    exact ⟨u, fun host => (step_cmd rfl).trans (hu rest (.writeDone host))⟩
  · refine ⟨s.hostWrite o n v, fun host => ?_⟩
    rw [← State.hostWrite_complete]
    exact step_write rfl ha ho

/-- Settles O52: the work of an access is fixed by its address, width and value, and its host stands in the answer alone. -/
theorem engineDoesNotSeeTheHost : Obligations.EngineDoesNotSeeTheHost := by
  intro s t h h' addr n v rest
  refine ⟨fun hb hstep => ?_, fun hb hstep => ?_⟩
  · obtain ⟨o, ha⟩ := exists_admit_of_isOk (eventAdmitted_of_step hb hstep)
    cases (step_read hb ha).symm.trans hstep
    exact ⟨s.hostRead o n, rfl, step_read rfl ha⟩
  · obtain ⟨o, ha⟩ := exists_admit_of_isOk (eventAdmitted_of_step hb hstep)
    obtain ⟨u, hu⟩ := step_write_forall_host s v rest ha
    have hs : { s with bus := .write h addr n v :: rest } = s := hb ▸ rfl
    cases (hu h).symm.trans (hs ▸ hstep)
    exact ⟨rfl, hu h'⟩

end Sys2Proof.Machine

namespace Sys2Proof.Machine

/-! ## Waiting on an empty bus (70_reset_and_hazards.md R292) -/

/-- Settles O7, by `step_wait`. -/
theorem engineWaitsForTheNextAccess : Obligations.EngineWaitsForTheNextAccess := fun _ hb => step_wait hb

end Sys2Proof.Machine

namespace Sys2Proof.Machine

/-! ## The table of legal words (30_encoding.md R91-R94, R103) -/

/-- The legal words are those of the well-formed commands. -/
theorem exists_decode_eq_ok_iff {w : Word} : (∃ i, decode w = .ok i) ↔ ∃ i, WellFormed i ∧ encode i = w := by
  constructor
  · rintro ⟨i, h⟩
    exact ⟨i, encodeInvertsDecode w i h⟩
  · rintro ⟨i, hi, rfl⟩
    exact ⟨i, decodeInvertsEncode i hi⟩

/-- A packed word as a number: OP from bit 0, MODE from bit 8 and CTX from bit 16 (R91). -/
theorem packC_eq_ofNat (op : BitVec 8) (mode : BitVec 2) {c : Nat} (hc : c < 256) :
    packC op mode (BitVec.ofNat 8 c) = BitVec.ofNat 32 (op.toNat + 256 * mode.toNat + c * 65536) := by
  apply BitVec.eq_of_toNat_eq
  simp only [packC, BitVec.toNat_append, BitVec.toNat_ofNat, Nat.mod_eq_of_lt hc]
  have hop := op.isLt
  have hmode := mode.isLt
  rw [← Nat.shiftLeft_add_eq_or_of_lt hop, ← Nat.shiftLeft_add_eq_or_of_lt hmode]
  simp only [Nat.shiftLeft_eq, Nat.zero_mod, Nat.zero_mul, Nat.zero_or, Nat.or_zero]
  omega

/-- Settles O3: the commands without a slot have the fixed words, and the four with one have a word for each slot index. -/
theorem legalWordsAreTheTable : Obligations.LegalWordsAreTheTable := by
  intro w
  rw [exists_decode_eq_ok_iff]
  constructor
  · rintro ⟨i, hi, rfl⟩
    cases i with
    | hashReentrant c | hashSized c | hashGrowing c | ctxInit c =>
      exact .inr ⟨c, hi, by simp [encode, packC_eq_ofNat _ _ hi]⟩
    | nop | hashShared | saltDecode | encode6 | keyDerive | digest | outEncode => exact .inl (by decide)
  · rintro (h | ⟨c, hc, h⟩) <;> simp only [List.mem_cons, List.not_mem_nil, or_false] at h
    · rcases h with rfl | rfl | rfl | rfl | rfl | rfl | rfl
      · exact ⟨.nop, trivial, rfl⟩
      · exact ⟨.hashShared, trivial, rfl⟩
      · exact ⟨.saltDecode, trivial, rfl⟩
      · exact ⟨.encode6, trivial, rfl⟩
      · exact ⟨.keyDerive, trivial, rfl⟩
      · exact ⟨.digest, trivial, rfl⟩
      · exact ⟨.outEncode, trivial, rfl⟩
    · rcases h with rfl | rfl | rfl | rfl
      · exact ⟨.hashReentrant c, hc, packC_eq_ofNat 0x01#8 1#2 hc⟩
      · exact ⟨.hashSized c, hc, packC_eq_ofNat 0x01#8 2#2 hc⟩
      · exact ⟨.hashGrowing c, hc, packC_eq_ofNat 0x01#8 3#2 hc⟩
      · exact ⟨.ctxInit c, hc, packC_eq_ofNat 0x02#8 0#2 hc⟩

end Sys2Proof.Machine

namespace Sys2Proof.Machine

/-! ## The alphabet as a string (40_salt_codec.md R110-R113) -/

/-- Settles O16: the alphabet has 64 characters to compare, and `decode6_eq_some_iff` says that the two are inverse. -/
theorem alphabetAndItsInverse : Obligations.AlphabetAndItsInverse :=
  ⟨by decide, fun _ => decode6_eq_some_iff.2 rfl, fun _ _ h => (decode6_eq_some_iff.1 h).symm⟩

end Sys2Proof.Machine

namespace Sys2Proof.Machine

/-! ## The key's bits (41_key_deriver.md R142-R144) -/

/-- A key byte depends on the low seven bits of its passphrase byte alone (R144). -/
theorem keyByte_congr {b b' : Byte} (h : b.extractLsb' 0 7 = b'.extractLsb' 0 7) : keyByte b = keyByte b' := by
  apply BitVec.eq_of_getLsbD_eq
  intro i hi
  have hbit := congrArg (BitVec.getLsbD · (i - 1)) h
  simp only [BitVec.getLsbD_extractLsb', show i - 1 < 7 by omega, decide_true, Bool.true_and, Nat.zero_add] at hbit
  rw [keyByte, keyByte, BitVec.getLsbD_shiftLeft, BitVec.getLsbD_shiftLeft, hbit]

/-- Bit 0 of every key byte is 0 (R143). -/
theorem getLsbD_keyByte_zero (b : Byte) : (keyByte b).getLsbD 0 = false := by
  simp [keyByte]

/-- Bit n of the key lies in key byte `7 - n / 8`, at place `n % 8` (R142). -/
theorem getLsbD_packKey (b : Nat → Byte) {n : Nat} (hn : n < 64) :
    (packKey b).getLsbD n = (keyByte (b (7 - n / 8))).getLsbD (n % 8) := by
  rw [← extractLsb'_packKey b (show 7 - n / 8 < 8 by omega), BitVec.getLsbD_extractLsb',
    decide_eq_true (Nat.mod_lt n (by decide)), Bool.true_and]
  congr 1
  omega

/-- Two keys whose bytes are equal are equal. -/
theorem packKey_congr_keyByte {b b' : Nat → Byte} (h : ∀ i, i < 8 → keyByte (b i) = keyByte (b' i)) :
    packKey b = packKey b' := by
  apply BitVec.eq_of_getLsbD_eq
  intro n hn
  rw [getLsbD_packKey b hn, getLsbD_packKey b' hn, h _ (by omega)]

/-- The low bit of each key byte is 0 (R143). -/
theorem getLsbD_packKey_parity (b : Nat → Byte) {n : Nat} (hn : n < 64) (h : n % 8 = 0) :
    (packKey b).getLsbD n = false := by
  rw [getLsbD_packKey b hn, h, getLsbD_keyByte_zero]

/-- A KEY_DERIVE of an accepted passphrase leaves the packed key in the key registers (R147, R148). -/
theorem key_of_exec_keyDerive {s t : State} (hp : s.passPresent = true) (hl : s.regs.passLen.toNat < 512)
    (h : exec .keyDerive s = .next t) :
    t.regs.keyHi = (packKey s.keySource).extractLsb' 32 32 ∧ t.regs.keyLo = (packKey s.keySource).extractLsb' 0 32 := by
  cases (exec_keyDerive_of_ok (State.keyDerive_good hp hl)).symm.trans h
  exact ⟨rfl, rfl⟩

/-- Settles O20: the key is packed from key bytes, each the low seven bits of a passphrase byte above a 0. -/
theorem keyIgnoresBit7AndTheTail : Obligations.KeyIgnoresBit7AndTheTail := by
  intro s s' t t' hp hp' hl hl' hbits h h'
  obtain ⟨hhi, hlo⟩ := key_of_exec_keyDerive hp hl h
  obtain ⟨hhi', hlo'⟩ := key_of_exec_keyDerive hp' hl' h'
  have hkey : packKey s.keySource = packKey s'.keySource := packKey_congr_keyByte fun i hi => keyByte_congr (hbits i hi)
  refine ⟨by rw [hhi, hhi', hkey], by rw [hlo, hlo', hkey], fun i hi => ⟨?_, ?_⟩⟩
  · rw [hhi, BitVec.getLsbD_extractLsb', getLsbD_packKey_parity _ (by omega) (by omega), Bool.and_false]
  · rw [hlo, BitVec.getLsbD_extractLsb', getLsbD_packKey_parity _ (by omega) (by omega), Bool.and_false]

end Sys2Proof.Machine

namespace Sys2Proof.Machine

/-! ## What the key schedule reads (42_digest_engine.md R170, R176) -/

/-- A permutation reads no bits but those that its table names. -/
theorem Des.perm_congr {w m : Nat} {table : List Nat} {v v' : BitVec w}
    (h : ∀ n ∈ table, Des.desbit v n = Des.desbit v' n) : Des.perm table m v = Des.perm table m v' := by
  have hnat : Des.permNat table v = Des.permNat table v' := List.foldl_ext _ _ _ fun acc n hn => by rw [h n hn]
  rw [Des.perm, Des.perm, hnat]

/-- Settles O24: permuted choice 1 names no DES bit that is a multiple of 8, and the digest reads the key through it alone. -/
theorem digestIgnoresParityBits : Obligations.DigestIgnoresParityBits := by
  intro k k' s h
  have htable : ∀ n ∈ Des.tablePC1, 64 - n < 64 ∧ (64 - n) % 8 ≠ 0 := by decide
  have hpc1 : Des.pc1 k = Des.pc1 k' := Des.perm_congr fun n hn => h _ (htable n hn).1 (htable n hn).2
  rw [Des.digest, Des.keySchedule, hpc1, Des.digest, Des.keySchedule]

/-! ## One encryption between the two permutations (42_digest_engine.md R174, R175) -/

/-- The halves L and R that the rounds start from: the block through IP, cut in two. -/
def Des.enter (b : Block) : BitVec 32 × BitVec 32 := ((Des.ip b).extractLsb' 32 32, (Des.ip b).extractLsb' 0 32)

/-- The block that two halves give at the end: joined, and through FP. -/
def Des.leave (lr : BitVec 32 × BitVec 32) : Block := Des.fp (lr.1 ++ lr.2)

/-- All rounds of an encryption with the exchange of the halves after them. -/
def Des.turn (ks : List (BitVec 48)) (s : BitVec 12) (lr : BitVec 32 × BitVec 32) : BitVec 32 × BitVec 32 :=
  (ks.foldl (Des.feistel s) lr).swap

theorem Des.encrypt_eq (ks : List (BitVec 48)) (s : BitVec 12) (b : Block) :
    Des.encrypt ks s b = Des.leave (Des.turn ks s (Des.enter b)) := rfl

theorem Des.leave_enter (b : Block) : Des.leave (Des.enter b) = b := by
  rw [Des.leave, Des.enter, block_halves, Des.fp_ip]

theorem Des.enter_leave (lr : BitVec 32 × BitVec 32) : Des.enter (Des.leave lr) = lr := by
  rw [Des.enter, Des.leave, Des.ip_fp, BitVec.extractLsb'_append_eq_left, BitVec.extractLsb'_append_eq_right]

theorem Des.iterate_eq (ks : List (BitVec 48)) (s : BitVec 12) (n : Nat) (b : Block) :
    Des.iterate ks s n b = (Des.encrypt ks s)^[n] b := by
  induction n generalizing b with
  | zero => rfl
  | succ n ih => exact ih _

/-- In a chain of encryptions each FP meets the next IP, so that one IP and one FP are left (R175). -/
theorem Des.iterate_eq_turns (ks : List (BitVec 48)) (s : BitVec 12) (n : Nat) (b : Block) :
    Des.iterate ks s n b = Des.leave ((Des.turn ks s)^[n] (Des.enter b)) := by
  have hstep : Function.Semiconj Des.leave (Des.turn ks s) (Des.encrypt ks s) := fun lr => by
    rw [Des.encrypt_eq, Des.enter_leave]
  rw [(hstep.iterate_right n).eq, Des.leave_enter, Des.iterate_eq]

/-- Settles O26, by `Des.iterate_eq_turns`. -/
theorem permutationsMoveOutOfTheChain : Obligations.PermutationsMoveOutOfTheChain :=
  fun k s => Des.iterate_eq_turns (Des.keySchedule k) s 25 0#64

/-! ## Decryption (42_digest_engine.md R174, R178) -/

/-- A round with the halves exchanged before and after it undoes the round. -/
theorem Des.feistel_swap_feistel (s : BitVec 12) (lr : BitVec 32 × BitVec 32) (k : BitVec 48) :
    Des.feistel s (Des.feistel s lr k).swap k = lr.swap := by
  simp [Des.feistel, Prod.swap]

/-- The rounds run with the round keys in reverse order undo the rounds. -/
theorem Des.turn_reverse_turn (ks : List (BitVec 48)) (s : BitVec 12) (lr : BitVec 32 × BitVec 32) :
    Des.turn ks.reverse s (Des.turn ks s lr) = lr := by
  have hrounds : ks.reverse.foldl (Des.feistel s) (ks.foldl (Des.feistel s) lr).swap = lr.swap := by
    induction ks generalizing lr with
    | nil => rfl
    | cons k ks ih =>
      rw [List.foldl_cons, List.reverse_cons, List.foldl_append, ih, List.foldl_cons, List.foldl_nil,
        Des.feistel_swap_feistel]
  rw [Des.turn, Des.turn, hrounds, Prod.swap_swap]

/-- Encryption with the round keys in reverse order is decryption, for every salt. -/
theorem Des.encrypt_reverse_encrypt (ks : List (BitVec 48)) (s : BitVec 12) (b : Block) :
    Des.encrypt ks.reverse s (Des.encrypt ks s b) = b := by
  rw [Des.encrypt_eq ks, Des.encrypt_eq, Des.enter_leave, Des.turn_reverse_turn, Des.leave_enter]

/-! ## The zero key (42_digest_engine.md R173, R178) -/

theorem Des.perm_zero {w : Nat} (table : List Nat) (m : Nat) : Des.perm table m 0#w = 0#m := by
  have hnat : Des.permNat table 0#w = 0 := by
    induction table using List.reverseRecOn with
    | nil => rfl
    | append_singleton ns n ih => rw [Des.permNat_append, ih, Des.desbit, BitVec.getLsbD_zero]; rfl
  rw [Des.perm, hnat]

theorem Des.roundKeys_zero (ns : List Nat) : Des.roundKeys ns 0#28 0#28 = List.replicate ns.length 0#48 := by
  have hrot : ∀ n, (0#28).rotateLeft n = 0#28 := fun n => by simp [BitVec.rotateLeft_def]
  have hkey : Des.pc2 (0#28 ++ 0#28) = 0#48 := Des.perm_zero _ _
  induction ns with
  | nil => rfl
  | cons n ns ih => rw [Des.roundKeys, hrot, hkey, ih, List.length_cons, List.replicate_succ]

/-- The schedule of the zero key is sixteen zero round keys. -/
theorem Des.keySchedule_zero : Des.keySchedule 0#64 = List.replicate 16 0#48 := by
  have hpc1 : Des.pc1 0#64 = 0#56 := Des.perm_zero _ _
  rw [Des.keySchedule, hpc1]
  exact Des.roundKeys_zero Des.shifts

/-- Under the zero key the schedule is its own reverse, so that encryption is decryption. -/
theorem Des.encrypt_zeroKey_involutive (s : BitVec 12) :
    Function.Involutive (Des.encrypt (Des.keySchedule 0#64) s) := by
  have hrev : (Des.keySchedule 0#64).reverse = Des.keySchedule 0#64 := by
    rw [Des.keySchedule_zero, List.reverse_replicate]
  intro b
  have h := Des.encrypt_reverse_encrypt (Des.keySchedule 0#64) s b
  rwa [hrev] at h

/-- Settles O25: the digest is an odd number of encryptions, of which all but one undo each other. -/
theorem zeroKeyIsWeak : Obligations.ZeroKeyIsWeak := by
  refine ⟨?_, ?_, fun s => Des.encrypt_zeroKey_involutive s, fun s => ?_⟩
  · rw [Des.keySchedule_zero]
    exact fun k hk => List.eq_of_mem_replicate hk
  · rw [Des.keySchedule_zero, List.length_replicate]
  · rw [Des.digest, Des.iterate_eq, (Des.encrypt_zeroKey_involutive s).iterate_odd (by decide)]

end Sys2Proof.Machine

namespace Sys2Proof.Machine

/-! ## The digest from its symbols (43_output_encoder.md R200, R201) -/

/-- A number below `2 ^ (6 m)` is the sum of its first m base-64 digits, each at its place. -/
theorem sum_digits64 (d m : Nat) :
    ((List.range m).map fun i => d / 2 ^ (6 * i) % 64 * 2 ^ (6 * i)).sum = d % 2 ^ (6 * m) := by
  induction m with
  | zero => simp [Nat.mod_one]
  | succ m ih =>
    rw [List.range_succ, List.map_append, List.sum_append, ih, List.map_singleton, List.sum_singleton,
      pow_mul, pow_mul, Nat.mod_pow_succ, Nat.mul_comm]
    rfl

/-- Symbol i stands for base-64 digit i of the digest (R200). -/
theorem digestDigit_toNat (d : Block) (i : Nat) : ((d >>> (6 * i)).setWidth 6).toNat = d.toNat / 2 ^ (6 * i) % 64 := by
  rw [BitVec.toNat_setWidth, BitVec.toNat_ushiftRight, Nat.shiftRight_eq_div_pow]

/-- Settles O28: each symbol decodes to the digit it stands for, and the digits add up to the digest. -/
theorem symbolsDetermineTheDigest : Obligations.SymbolsDetermineTheDigest := by
  refine fun d => ⟨fun i => (d >>> (6 * i)).setWidth 6, fun i _ => decode6_eq_some_iff.2 rfl, ?_, ?_⟩
  · simp only [digestDigit_toNat, sum_digits64]
    omega
  · rw [digestDigit_toNat]
    omega

end Sys2Proof.Machine

namespace Sys2Proof.Machine

/-! ## Determinism and isolation of HASH (44_hash_context.md R237, R238) -/

/-- A HASH succeeds only with good inputs, and then OUTPUT of the slot it names holds the output string (R221, R227). -/
theorem State.hash_output_of_ok {s : State} {m : HashMode} {c : Nat} (h : (s.hash m c).regs.ok = true) :
    ∃ v0 v1, decode6 (s.saltByte 0) = some v0 ∧ decode6 (s.saltByte 1) = some v1 ∧
      ∀ j, j < 14 → (s.hash m c).byteAt (slotAt (slotOf m c) j) = (s.hashString v0 v1).getD j 0#8 := by
  have failed : ∀ {code}, s.OnlyStatus (s.hash m c) false code → False := by
    rintro code ⟨hregs, -⟩
    simp [hregs] at h
  cases hr : s.resolveContext m c with
  | error e => exact (failed (State.hash_unresolved hr).1).elim
  | ok slot =>
    cases he : s.firstHashError with
    | some e => exact (failed (State.hash_leavesToken hr he).1).elim
    | none =>
      obtain ⟨v0, v1, h0, h1⟩ := State.decode6_of_noError he
      refine ⟨v0, v1, h0, h1, fun j hj => ?_⟩
      rw [(State.hash_writesString hr he h0 h1).2, ← (State.resolveContext_slot hr).1,
        State.byteAfterHash_output _ _ _ _ (by rwa [outString_length])]

/-- Settles O37: the output string is a function of the first two salt bytes and of the eight bytes that feed the key. -/
theorem hashIsDeterministic : Obligations.HashIsDeterministic := by
  intro s s' t t' m m' c c' _ _ _ _ hsalt0 hsalt1 hlen _ hpass h h' hok hok' j hj
  cases (exec_hashOf s m c).symm.trans h
  cases (exec_hashOf s' m' c').symm.trans h'
  obtain ⟨v0, v1, h0, h1, hout⟩ := State.hash_output_of_ok hok
  obtain ⟨v0', v1', h0', h1', hout'⟩ := State.hash_output_of_ok hok'
  have hkey : packKey s.keySource = packKey s'.keySource := packKey_congr fun i hi => by
    unfold State.keySource
    rw [← hlen]
    split_ifs with hil
    · exact hpass i (by omega)
    · rfl
  have hv0 : v0 = v0' := Option.some.inj (h0.symm.trans (hsalt0 ▸ h0'))
  have hv1 : v1 = v1' := Option.some.inj (h1.symm.trans (hsalt1 ▸ h1'))
  rw [hout j hj, hout' j hj, State.hashString, State.hashString, hsalt0, hsalt1, hkey, hv0, hv1]

/-- A HASH writes no byte outside the slot that it names (R220). -/
theorem State.byteAt_hash_outside (s : State) (m : HashMode) (c : Nat) {b : Nat}
    (hb : b < slotAt (slotOf m c) 0 ∨ slotAt (slotOf m c) 33280 ≤ b) : (s.hash m c).byteAt b = s.byteAt b := by
  cases hr : s.resolveContext m c with
  | error e =>
    rw [State.hash_of_error hr, State.byteAt_failureEpilogue_none, State.byteAt_afterResolve]
  | ok slot =>
    obtain ⟨out, hlen, hbytes⟩ := State.hash_resolved_bytes hr
    rw [hbytes, State.byteAfterHash_outside s slot out (by omega) b ((State.resolveContext_slot hr).1 ▸ hb)]

/-- Ensure-initialized writes no byte outside its slot (R223). -/
theorem State.byteAt_ensureInitialized_outside (s : State) (c : Nat) {b : Nat}
    (hb : b < slotAt c 0 ∨ slotAt c 33280 ≤ b) : (s.ensureInitialized c).byteAt b = s.byteAt b := by
  rw [State.byteAt_ensureInitialized, if_neg (by simp only [slotAt] at *; omega)]

/-- CTX_INIT writes no byte outside its slot and no register but the status (R235). -/
theorem exec_ctxInit_isolated {s t : State} {c : Nat} (h : exec (.ctxInit c) s = .next t) :
    (∀ b, (b < slotAt c 0 ∨ slotAt c 33280 ≤ b) → t.byteAt b = s.byteAt b) ∧
    t.regs = s.regs.setStatus t.regs.ok t.regs.code := by
  by_cases hc : c < s.cfg.nCtx
  · cases (exec_ctxInit_of_lt hc).symm.trans h
    refine ⟨fun b hb => ?_, ?_⟩
    · rw [State.byteAt_successEpilogue, State.byteAt_ensureInitialized_outside s c hb]
    · rw [State.successEpilogue_eq, State.ensureInitialized_regs]
      rfl
  · cases (exec_ctxInit_of_ge (Nat.le_of_not_lt hc)).symm.trans h
    refine ⟨fun b _ => State.byteAt_failureEpilogue_none .., ?_⟩
    rw [State.failureEpilogue_none]
    rfl

/-- A command that writes no register but the status has `OnlyStatus`: the rest of it holds of every command but NOP. -/
theorem exec_onlyStatus {i : Instr} {s t : State} (hi : i ≠ .nop) (h : exec i s = .next t)
    (hregs : t.regs = s.regs.setStatus t.regs.ok t.regs.code) : s.OnlyStatus t t.regs.ok t.regs.code := by
  obtain ⟨hzero, -⟩ := exec_reported hi h
  have hf := exec_frame h
  exact ⟨hregs, hzero, hf.cfg, hf.epoch, hf.bus, hf.reply⟩

/-- Settles O38: either command stores in its slot alone. -/
theorem distinctSlotsAreIsolated : Obligations.DistinctSlotsAreIsolated := by
  rintro s t i slot (rfl | ⟨m, c, rfl, rfl⟩) h
  · obtain ⟨hbytes, hregs⟩ := exec_ctxInit_isolated h
    exact ⟨hbytes, exec_onlyStatus (by simp) h hregs⟩
  · have ht : s.hash m c = t := Host.Outcome.next.inj ((exec_hashOf s m c).symm.trans h)
    exact ⟨fun b hb => ht ▸ s.byteAt_hash_outside m c hb, exec_onlyStatus (hashOf_ne_nop m c) h (ht ▸ s.hash_regs m c)⟩

end Sys2Proof.Machine

namespace Sys2Proof.Machine

/-! ## A byte of a storage access (20_memory.md R67, R69, R73) -/

/-- With legal parameters every mapped offset lies in the window (R61). -/
theorem regionOf_lt_window {cfg : Config} {o : Nat} {r : Region} (hl : cfg.Legal) (h : regionOf cfg o = some r) :
    o < Config.windowBytes := by
  obtain ⟨-, hn, -⟩ := hl
  simp only [Config.windowBytes]
  rcases regionOf_cases h with ⟨-, h⟩ | ⟨-, -, h⟩ | ⟨-, -, h⟩ | ⟨c, j, -, hc, hj, ho⟩
  · omega
  · omega
  · omega
  · simp only [slotAt] at ho
    omega

/-- Each byte of an admitted storage access can be accessed by itself (R69). -/
theorem admit_byte {cfg : Config} {addr n o k : Nat} (hl : cfg.Legal) (ha : admitAccess cfg addr n = .ok o)
    (ho : 0x100 ≤ o) (hk : k < n) : admitAccess cfg (addr + k) 1 = .ok (o + k) := by
  obtain ⟨hadd, -⟩ := admit_ok ha
  obtain ⟨r, hr, hp⟩ := admit_storage ha ho (Nat.le_add_right o k) (by omega)
  rw [hadd, Nat.add_assoc]
  exact admit_of_region (regionOf_lt_window hl hr) (.inl rfl) (Nat.mod_one _) hr hr fun h => absurd h hp

/-- A one-byte read answers the byte (R67). -/
theorem State.readLE_one (s : State) (o : Nat) : s.readLE o 1 = (s.byteAt o).setWidth 32 := by
  simp [State.readLE, leWord]

/-- Settles O47: the write leaves the parameters, so the byte's read is admitted and finds the byte written. -/
theorem storageWriteThenRead : Obligations.StorageWriteThenRead := by
  intro s host host' addr n o k v rest hl ha ho hk hb
  have hwrite := step_write hb ha (by omega)
  rw [State.hostWrite_storage _ n v ho] at hwrite
  generalize ht : (s.complete _ (.writeDone host)).writeLE o n v = t at hwrite
  have hbus : t.bus = .read host' (addr + k) 1 :: rest := by simp [← ht]
  have hcfg : t.cfg = s.cfg := by simp [← ht]
  refine ⟨t, _, hwrite, step_read hbus (hcfg ▸ admit_byte hl ha ho hk), ?_, fun b hout => ?_, ?_⟩
  · rw [State.complete_reply, State.hostRead_storage t 1 (by omega), State.readLE_one, ← ht, State.byteAt_writeLE _ o n v k hk]
  · rw [← ht, State.byteAt_writeLE_of_outside _ o n v b hout, State.byteAt_complete]
  · simp [← ht]

end Sys2Proof.Machine
